-- ==== Sys2Proof/Word.lean ====
section
/-! DEFINITION. The widths the block's interfaces move (00_scope.md R9) and the two pin levels (R13). -/

namespace Sys2Proof

/-- An unsigned 8-bit value, bits 7 down to 0 (R9). -/
abbrev Byte := BitVec 8

/-- A 16-bit value, bits 15 down to 0 (R9): the CRC register and the received checksum. -/
abbrev Word16 := BitVec 16

/-- A pin level: one of two binary states (R13). -/
inductive Level where
  | high
  | low
  deriving DecidableEq, Repr, Inhabited

end Sys2Proof
end

