-- ==== Sys2Proof/Config.lean ====
section
/-! DEFINITION. The build-time parameter record (00_scope.md R7) and the free values that stand for the environment's
draws. The values this hardware gives the record, and the constraints of R8, are in Machine/Parameters.lean. -/

namespace Sys2Proof

/-- `RSP_CRC_ORDER`: the order of the two CRC bytes in a response (R7, R45). -/
inductive CrcOrder where
  | hiFirst
  | loFirst
  deriving DecidableEq, Repr

/-- The 24 parameters of R7, in its order. The 8-bit constraints of R8 are the fields' types. -/
structure Params where
  reqM1 : Byte
  reqM2 : Byte
  rspM1 : Byte
  rspM2 : Byte
  cmdDisable : Byte
  cmdEnable : Byte
  cmdGetConfig : Byte
  ackByte : Byte
  nakByte : Byte
  stDisabled : Byte
  stEnabled : Byte
  stPinWriteError : Byte
  stInvalidCommand : Byte
  stInvalidCrc : Byte
  stTimeoutError : Byte
  n : Nat
  statusFill : Byte
  crcPoly : Word16
  crcInit : Word16
  rspCrcOrder : CrcOrder
  enableLevel : Level
  disableLevel : Level
  timeoutMs : Nat
  clkW : Nat
  deriving DecidableEq, Repr

/-- FREE VALUE. The byte source's answer in poll cycle `k` when no draw is listed for it: no byte, or any byte
(20_memory.md R41, 93_implementation_defined.md U8). DESIGN CHOICE, safe: log 3. -/
opaque Config.freeRx : Nat → Option Byte

/-- FREE VALUE. The clock's value in poll cycle `k` when no draw is listed for it (R44, U9). DESIGN CHOICE, safe: log 3. -/
opaque Config.freeNow : Nat → Nat

/-- FREE VALUE. The level the pin reads in poll cycle `k` when no draw is listed for it (R43, U6). DESIGN CHOICE,
safe: log 3. -/
opaque Config.freePinRd : Nat → Level

end Sys2Proof
end

