-- ==== Sys2Proof/Machine/Crc.lean ====
section
/-! DEFINITION. The CRC-16 unit (41_crc.md R120): one function shared by the validator and the generator (R121). -/

namespace Sys2Proof.Machine

/-- One of the eight shifts of `CrcUpdate` (R120): most-significant bit first. -/
def crcShift (poly c : Word16) : Word16 := if c.msb then (c <<< 1) ^^^ poly else c <<< 1

/-- `k` shifts. -/
def crcShifts (poly : Word16) : Nat → Word16 → Word16
  | 0, c => c
  | k + 1, c => crcShifts poly k (crcShift poly c)

/-- `CrcUpdate(c, b)` (R120). -/
def crcUpdate (p : Params) (c : Word16) (b : Byte) : Word16 :=
  crcShifts p.crcPoly 8 (c ^^^ (b.zeroExtend 16 <<< 8))

/-- The CRC register carried over a byte list from the value `c` (R122). -/
def crcFrom (p : Params) (c : Word16) (l : List Byte) : Word16 := l.foldl (crcUpdate p) c

/-- `Crc16(l)` (R120). -/
def crc16 (p : Params) (l : List Byte) : Word16 := crcFrom p p.crcInit l

end Sys2Proof.Machine
end

