-- ==== Sys2Proof/Machine/Operands.lean ====
section
/-! DEFINITION. Operand assembly: the only multi-byte operand is the 16-bit checksum (30_encoding.md R69, 20_memory.md
R45). -/

namespace Sys2Proof.Machine

/-- `v[15:8]` (00_scope.md R9). -/
def hiByte (v : Word16) : Byte := v.extractLsb' 8 8

/-- `v[7:0]` (R9). -/
def loByte (v : Word16) : Byte := v.extractLsb' 0 8

/-- The concatenation `{h, l}`, `h` in bits 15:8 (R9). -/
def joinBytes (h l : Byte) : Word16 := h ++ l

/-- `v[15:8] <- b`, the other half unchanged (10_state.md R25). -/
def setHiByte (v : Word16) (b : Byte) : Word16 := joinBytes b (loByte v)

/-- `v[7:0] <- b`, the other half unchanged (R25). -/
def setLoByte (v : Word16) (b : Byte) : Word16 := joinBytes (hiByte v) b

end Sys2Proof.Machine
end

