-- ==== Sys2Proof/Machine/Parameters.lean ====
section
/-! DEFINITION. The values this hardware gives the parameter record (00_scope.md R7, column "value") and the constraints
every rule assumes (R8). -/

namespace Sys2Proof

/-- R7's column "value". The source gives the four markers, `CMD_ENABLE`, `N` and `TIMEOUT_MS`; the rest are the spec's
decisions D1 to D9. DESIGN CHOICE of the spec, unsafe for byte-exact claims: log 2. -/
def thisHardware : Params where
  reqM1 := 0x57
  reqM2 := 0x43
  rspM1 := 0x57
  rspM2 := 0x52
  cmdDisable := 0x00
  cmdEnable := 0x01
  cmdGetConfig := 0x02
  ackByte := 0x06
  nakByte := 0x15
  stDisabled := 0x01
  stEnabled := 0x02
  stPinWriteError := 0x04
  stInvalidCommand := 0x08
  stInvalidCrc := 0x10
  stTimeoutError := 0x20
  n := 1
  statusFill := 0x00
  crcPoly := 0x1021
  crcInit := 0xFFFF
  rspCrcOrder := .hiFirst
  enableLevel := .high
  disableLevel := .low
  timeoutMs := 30
  clkW := 32

/-- The six status codes of 30_encoding.md R67, in its order. -/
def Params.statusCodes (p : Params) : List Byte :=
  [p.stDisabled, p.stEnabled, p.stPinWriteError, p.stInvalidCommand, p.stInvalidCrc, p.stTimeoutError]

/-- The constraints on the parameter record (R8). The 8-bit ones are carried by the fields' types. -/
def Params.ok (p : Params) : Bool :=
  decide (p.cmdDisable ≠ p.cmdEnable ∧ p.cmdDisable ≠ p.cmdGetConfig ∧ p.cmdEnable ≠ p.cmdGetConfig ∧
    p.ackByte ≠ p.nakByte ∧ p.statusCodes.Nodup ∧ (p.rspM1, p.rspM2) ≠ (p.reqM1, p.reqM2) ∧
    p.enableLevel ≠ p.disableLevel ∧ 1 ≤ p.n ∧ p.timeoutMs < 2 ^ p.clkW)

end Sys2Proof
end

