-- ==== Sys2Proof/Syntax.lean ====
section
/-! DEFINITION. The instruction set: the request protocol's three commands and its default arm (30_encoding.md R65). -/

namespace Sys2Proof

/-- One constructor per row of spec/opcode_table.json. No command has an operand; `invalid` keeps the command byte it
stands for, one of the 253 values that are no command code (R144). -/
inductive Instr where
  | disable
  | enable
  | getConfig
  | invalid (c : Byte)
  deriving DecidableEq, Repr

end Sys2Proof
end

