-- ==== Sys2Proof/WellFormed.lean ====
section
/-! DEFINITION. Which instructions a request frame can carry. -/

namespace Sys2Proof

/-- `invalid c` stands for the default arm, so `c` is none of the three command codes: the exact rows are decoded first
(30_encoding.md R65; opcode_table.json, row INVALID). DEDUCED, safe: log 11. -/
def Instr.wellFormed (p : Params) : Instr → Bool
  | .disable => true
  | .enable => true
  | .getConfig => true
  | .invalid c => c != p.cmdDisable && c != p.cmdEnable && c != p.cmdGetConfig

end Sys2Proof
end

