-- ==== Sys2Proof/Decode.lean ====
section
/-! DEFINITION. The decoder, total on any bytes, and after it the encoder. An instruction travels as a 5-byte request
frame (30_encoding.md R60); the opcode table numbers its command byte alone (R65). -/

namespace Sys2Proof

/-- The command map (R65): the command byte decoded whole, by exact comparison, the three exact rows first. -/
def decodeCmd (p : Params) (c : Byte) : Instr :=
  if c = p.cmdDisable then .disable
  else if c = p.cmdEnable then .enable
  else if c = p.cmdGetConfig then .getConfig
  else .invalid c

/-- Why a byte list is no request frame (30_encoding.md R61, R70). -/
inductive DecodeError where
  /-- fewer than the five bytes of a request frame (R60) -/
  | truncated
  /-- byte 0 is not `REQ_M1` (R61) -/
  | badMarker1
  /-- byte 1 is not `REQ_M2` (R61) -/
  | badMarker2
  /-- the frame is not CRC-valid (R61) -/
  | badCrc
  deriving DecidableEq, Repr

/-- Reads one request frame from the front of a byte list: the instruction it carries and the bytes after it, or the
reason there is none. What the block does with a rejected byte or frame is the parser's and the gate's business
(Machine/Parser.lean, Machine/PollCycle.lean). DEDUCED, safe: log 12. -/
def decode (p : Params) : List Byte → Except DecodeError (Instr × List Byte)
  | m1 :: m2 :: c :: h :: l :: rest =>
    if m1 ≠ p.reqM1 then .error .badMarker1
    else if m2 ≠ p.reqM2 then .error .badMarker2
    else if Machine.joinBytes h l ≠ Machine.crc16 p [m1, m2, c] then .error .badCrc
    else .ok (decodeCmd p c, rest)
  | _ => .error .truncated

/-- The command byte of an instruction (R65). -/
def Instr.cmdByte (p : Params) : Instr → Byte
  | .disable => p.cmdDisable
  | .enable => p.cmdEnable
  | .getConfig => p.cmdGetConfig
  | .invalid c => c

/-- `REQ! c h l`: a request with an explicit checksum, which may be wrong (R72). -/
def requestWith (p : Params) (c h l : Byte) : List Byte := [p.reqM1, p.reqM2, c, h, l]

/-- The checksum a sender computes for command byte `c`: over the three preceding bytes (R61). -/
def requestCrc (p : Params) (c : Byte) : Word16 := Machine.crc16 p [p.reqM1, p.reqM2, c]

/-- `REQ c`: a CRC-valid request (R72), high checksum byte first (R60). -/
def request (p : Params) (c : Byte) : List Byte :=
  requestWith p c (Machine.hiByte (requestCrc p c)) (Machine.loByte (requestCrc p c))

/-- The bytes of an instruction: its request frame. -/
def encode (p : Params) (i : Instr) : List Byte := request p (i.cmdByte p)

/-- The instruction of an opcode-table word on this hardware: the table's bits are the command byte alone, so the word is
laid out as the CRC-valid request with that command byte and given to `decode`. A word that is no byte is none.
DESIGN CHOICE: log 10. -/
def decodeTableWord (nbits w : Nat) : Option Instr :=
  if w % 2 ^ nbits < 256 then
    match decode thisHardware (request thisHardware (BitVec.ofNat 8 (w % 2 ^ nbits))) with
    | .ok (i, _) => some i
    | .error _ => none
  else none

end Sys2Proof
end

