-- ==== Sys2Proof/Machine/State.lean ====
section
/-! DEFINITION. The machine's state: the spec's record S (10_state.md R20), the build-time parameter record (00_scope.md
R7), the one value that lives inside a poll cycle, and the environment's side of the four interfaces. Plain data. -/

namespace Sys2Proof.Machine

/-- The parser state register's five values (10_state.md R21). "complete" is an event, not a state. -/
inductive ParserState where
  | waitStart1
  | waitStart2
  | waitCmd
  | waitCrcHi
  | waitCrcLo
  deriving DecidableEq, Repr

/-- One poll cycle's draws (45_poll_cycle.md R216): what `RxByte()`, `Now()` and `PinRead()` answer in it. `now` is read
modulo `2^CLK_W` (log 7). -/
structure CycleInput where
  rx : Option Byte
  now : Nat
  pinRd : Level
  deriving DecidableEq, Repr

/-- An interaction with the pin or the sink (00_scope.md R11; 20_memory.md R42, R43). -/
inductive Event where
  /-- `PinWrite(v)` -/
  | pinWrite (v : Level)
  /-- `PinRead()`, with the level it returned -/
  | pinRead (v : Level)
  /-- `SinkWrite(l)`: one whole response frame -/
  | sinkWrite (l : List Byte)
  deriving DecidableEq, Repr

/-- The pair (ack, status) of a response (00_scope.md R12). -/
structure Response where
  ack : Byte
  status : Byte
  deriving DecidableEq, Repr

/-- The error taxonomy, complete (60_exceptions.md R230). -/
inductive ErrorStatus where
  | invalidCrc
  | invalidCommand
  | pinWriteError
  | timeoutError
  deriving DecidableEq, Repr

/-- The machine. Which fields are the spec's and which the model's own is said group by group. -/
structure State where
  /-- The build-time parameter record (00_scope.md R7, R30): a constant that no step writes. DESIGN CHOICE, safe: log 1. -/
  par : Params
  -- the record S of 10_state.md R20
  /-- `S.state` (R21) -/
  state : ParserState
  /-- `S.start1` (R22) -/
  start1 : Byte
  /-- `S.start2` (R23) -/
  start2 : Byte
  /-- `S.cmd` (R24) -/
  cmd : Byte
  /-- `S.crc_rx` (R25) -/
  crcRx : Word16
  /-- `S.last_rx`, below `2^CLK_W` (R26; log 7) -/
  lastRx : Nat
  /-- `S.pin_out` (R27) -/
  pinOut : Option Level
  -- inside one poll cycle
  /-- `resp` of R210: the response the cycle will send. None between cycles (R20). DESIGN CHOICE, safe: log 6. -/
  resp : Option Response
  -- the environment's side, the model's own
  /-- The draws of the coming cycles, the current one first. DESIGN CHOICE, safe: log 3. -/
  inputs : List CycleInput
  /-- Poll cycles run so far: the argument of the free values. DESIGN CHOICE, safe: log 4. -/
  cycle : Nat
  /-- The interactions so far, oldest first; nothing reads it (R42). DESIGN CHOICE, safe: log 5. -/
  trace : List Event
  deriving DecidableEq, Repr

/-- No rule of the spec stops the block with a fault: every input has a defined outcome
(93_implementation_defined.md U18). So there is no constructor. DEDUCED, safe: log 16. -/
inductive Fault where
  deriving DecidableEq, Repr

/-- Why a step answers no next state. -/
inductive Refusal where
  /-- Raised by `exec` alone, for an instruction that has no meaning yet; no arm raises it. Safe. -/
  | notModelled (mnemonic : String)
  /-- Raised by the poll cycle alone, when the parameter record breaks 00_scope.md R8 (U18: "A model should still refuse
  a parameter record that breaks 00_scope.md rule R8"). Safe: log 9. -/
  | badParameters
  deriving DecidableEq, Repr

/-- What a step or an instruction answers. -/
abbrev Result := Host.Outcome State Fault Refusal

/-- The state right after reset for any build (70_reset_and_hazards.md R260). `WaitStart1` is the source's initial state;
the other values of S are the spec's decision D12 (log 8). -/
def State.resetWith (p : Params) : State where
  par := p
  state := .waitStart1
  start1 := 0x00
  start2 := 0x00
  cmd := 0x00
  crcRx := 0x0000
  lastRx := 0
  pinOut := none
  resp := none
  inputs := []
  cycle := 0
  trace := []

/-- This hardware right after reset. -/
def State.reset : State := State.resetWith thisHardware

end Sys2Proof.Machine
end

