-- ==== Sys2Proof/Machine/Ops.lean ====
section
/-! DEFINITION. The named operations: the I/O primitives of 00_scope.md R11, writing a response and raising an error
(R12). -/

namespace Sys2Proof.Machine

/-- This poll cycle's draws: the first listed record, or free values where none is listed (log 3). -/
def currentInput (s : State) : CycleInput :=
  match s.inputs with
  | i :: _ => i
  | [] => ⟨Config.freeRx s.cycle, Config.freeNow s.cycle, Config.freePinRd s.cycle⟩

/-- `RxByte()`: at most one byte per cycle (20_memory.md R41). -/
def rxByte (s : State) : Option Byte := (currentInput s).rx

/-- `Now()`: a `CLK_W`-bit value, one sample per cycle (R44). -/
def now (s : State) : Nat := (currentInput s).now % 2 ^ s.par.clkW

/-- The level `PinRead()` returns in this cycle: a draw, not computed from `S.pin_out` (R43). -/
def pinLevel (s : State) : Level := (currentInput s).pinRd

/-- Adds an interaction to the trace. -/
def record (e : Event) (s : State) : State := { s with trace := s.trace ++ [e] }

/-- `PinRead()`: no side effect on the pin (R43); the trace shows the access. -/
def pinRead (s : State) : State := record (.pinRead (pinLevel s)) s

/-- `PinWrite(v)` and the output register's update that goes with it (R43, 10_state.md R27). -/
def pinWrite (v : Level) (s : State) : State := record (.pinWrite v) { s with pinOut := some v }

/-- `SinkWrite(l)`: one call, one output event, always succeeds (R42). -/
def sinkWrite (l : List Byte) (s : State) : State := record (.sinkWrite l) s

/-- `respond (a, s)` (R12): the pair becomes the cycle's response. -/
def respond (a st : Byte) (s : State) : State := { s with resp := some ⟨a, st⟩ }

/-- The status code of an error (60_exceptions.md R230). -/
def errorCode (p : Params) : ErrorStatus → Byte
  | .invalidCrc => p.stInvalidCrc
  | .invalidCommand => p.stInvalidCommand
  | .pinWriteError => p.stPinWriteError
  | .timeoutError => p.stTimeoutError

/-- `raise E` (R12, R233): TAKING AN ERROR. It saves no state, changes no mode and transfers control nowhere; the pair
(`NAK_BYTE`, `ST_E`) becomes the cycle's response. There is no return operation (R234): the next poll cycle goes on
from the state as it stands. -/
def raiseError (e : ErrorStatus) (s : State) : State := respond s.par.nakByte (errorCode s.par e) s

end Sys2Proof.Machine
end

