-- ==== Sys2Proof/Machine/Commands.lean ====
section
/-! DEFINITION. The meanings of the four instructions (42_dispatcher.md R141 to R144). They run after the CRC gate
(R140, Machine/PollCycle.lean) and answer through `resp`. None has an error that stops the block. -/

namespace Sys2Proof.Machine

/-- Write-then-verify (R141, R142): drive the pin to `v`, record it in the output register, read the pin back, and
report `st` only if the read-back equals `v`. The write is always performed (D24) and is not undone (R141). -/
def writeThenVerify (v : Level) (st : Byte) (s : State) : State :=
  let w := pinWrite v s
  if pinLevel w = v then respond s.par.ackByte st (pinRead w) else raiseError .pinWriteError (pinRead w)

/-- `DISABLE` (R141). -/
def execDisable (s : State) : Result := .next (writeThenVerify s.par.disableLevel s.par.stDisabled s)

/-- `ENABLE` (R142). -/
def execEnable (s : State) : Result := .next (writeThenVerify s.par.enableLevel s.par.stEnabled s)

/-- `GETCONFIG` (R143): no write; reports the pin as read, not `S.pin_out`; always acknowledged. -/
def execGetConfig (s : State) : Result :=
  .next (respond s.par.ackByte (if pinLevel s = s.par.enableLevel then s.par.stEnabled else s.par.stDisabled) (pinRead s))

/-- `INVALID` (R144): raises InvalidCommand, whatever the byte; no pin access of any kind (D25). -/
def execInvalid (_c : Byte) (s : State) : Result := .next (raiseError .invalidCommand s)

end Sys2Proof.Machine
end

