-- ==== Sys2Proof/Machine/Dispatch.lean ====
section
/-! DEFINITION. One arm per instruction (42_dispatcher.md R140's decode picks the instruction). -/

namespace Sys2Proof.Machine

def exec (i : Instr) (s : State) : Host.Outcome State Fault Refusal :=
  match i with
  | .disable => Sys2Proof.Machine.execDisable s
  | .enable => Sys2Proof.Machine.execEnable s
  | .getConfig => Sys2Proof.Machine.execGetConfig s
  | .invalid c => Sys2Proof.Machine.execInvalid c s

end Sys2Proof.Machine
end

