-- ==== Sys2Proof/Machine/Encoder.lean ====
section
/-! DEFINITION. The response encoder (44_encoder.md R190), and the receiver's check of a response (41_crc.md R125). -/

namespace Sys2Proof.Machine

/-- The bytes a response's CRC covers: markers, ack, `status[0]`, then `N-1` fill bytes (R190). -/
def responseBody (p : Params) (r : Response) : List Byte :=
  [p.rspM1, p.rspM2, r.ack, r.status] ++ List.replicate (p.n - 1) p.statusFill

/-- The two CRC bytes in the order given (R190, 20_memory.md R45). -/
def crcBytes (o : CrcOrder) (c : Word16) : List Byte :=
  match o with
  | .hiFirst => [hiByte c, loByte c]
  | .loFirst => [loByte c, hiByte c]

/-- `Encode(a, s)` (R190). -/
def encodeResponse (p : Params) (r : Response) : List Byte :=
  responseBody p r ++ crcBytes p.rspCrcOrder (crc16 p (responseBody p r))

/-- The 16-bit value a receiver reads from the CRC field of a response frame, taking its two bytes in order `o` (R125).
-/
def receivedCrc (p : Params) (o : CrcOrder) (f : List Byte) : Option Word16 :=
  match f.drop (3 + p.n), o with
  | [a, b], .hiFirst => some (joinBytes a b)
  | [a, b], .loFirst => some (joinBytes b a)
  | _, _ => none

/-- A receiver's verdict on a response frame: the CRC recomputed over bytes 0 .. 2+N equals the one received (R125). -/
def responseCrcMatches (p : Params) (o : CrcOrder) (f : List Byte) : Bool :=
  receivedCrc p o f == some (crc16 p (f.take (3 + p.n)))

/-- The six (ack, status) pairs the block emits (30_encoding.md R68), in its order. -/
def emittedPairs (p : Params) : List Response :=
  [⟨p.ackByte, p.stDisabled⟩, ⟨p.ackByte, p.stEnabled⟩, ⟨p.nakByte, p.stPinWriteError⟩,
   ⟨p.nakByte, p.stInvalidCommand⟩, ⟨p.nakByte, p.stInvalidCrc⟩, ⟨p.nakByte, p.stTimeoutError⟩]

end Sys2Proof.Machine
end

