-- ==== Sys2Proof/Machine/Flags.lean ====
section
/-! DEFINITION. The transient Booleans that steer a poll cycle: the validator's `crc_ok` (41_crc.md R123) and the
supervisor's `fire` (43_timeout.md R170). None is stored. The completion flag is the parser's own result
(Machine/Parser.lean, R105). -/

namespace Sys2Proof.Machine

/-- `crc_ok` (R123): exact equality of the received checksum and the one recomputed over the three frame bytes. -/
def crcOk (s : State) : Bool := s.crcRx == crc16 s.par [s.start1, s.start2, s.cmd]

/-- `(t - last) mod 2^w`, unsigned (R170). -/
def elapsed (w t last : Nat) : Nat := (((t : Int) - last) % (2 ^ w : Nat)).toNat

/-- `TimeoutCheck(now)` (R170): strict comparison, never in `WaitStart1` (R172). -/
def timeoutCheck (s : State) : Bool :=
  s.state != .waitStart1 && decide (s.par.timeoutMs < elapsed s.par.clkW (now s) s.lastRx)

end Sys2Proof.Machine
end

