-- ==== Sys2Proof/Machine/Parser.lean ====
section
/-! DEFINITION. The frame parser (40_parser.md R100 to R105) and the port encoding of its state (10_state.md R21). -/

namespace Sys2Proof.Machine

/-- The 3-bit port encoding of the parser state (10_state.md R21, decision D30). No rule reads it. -/
def stateCode : ParserState → BitVec 3
  | .waitStart1 => 0
  | .waitStart2 => 1
  | .waitCmd => 2
  | .waitCrcHi => 3
  | .waitCrcLo => 4

/-- The parser state a port value stands for; 5, 6 and 7 stand for none (93_implementation_defined.md U13). -/
def stateOfCode (c : BitVec 3) : Option ParserState :=
  if c = 0 then some .waitStart1
  else if c = 1 then some .waitStart2
  else if c = 2 then some .waitCmd
  else if c = 3 then some .waitCrcHi
  else if c = 4 then some .waitCrcLo
  else none

/-- `ParserStep(b)`: consumes one byte and answers the state after it and the completion flag `done` (R105). The arms
are R100 to R104 in order. The marker registers are written on acceptance only (decision D31), and a byte that is not
`REQ_M2` in `WaitStart2` is not tried as a first marker (decision D16). -/
def parserStep (b : Byte) (s : State) : State × Bool :=
  match s.state with
  | .waitStart1 => (if b = s.par.reqM1 then { s with start1 := b, state := .waitStart2 } else s, false)
  | .waitStart2 =>
    (if b = s.par.reqM2 then { s with start2 := b, state := .waitCmd } else { s with state := .waitStart1 }, false)
  | .waitCmd => ({ s with cmd := b, state := .waitCrcHi }, false)
  | .waitCrcHi => ({ s with crcRx := setHiByte s.crcRx b, state := .waitCrcLo }, false)
  | .waitCrcLo => ({ s with crcRx := setLoByte s.crcRx b, state := .waitStart1 }, true)

end Sys2Proof.Machine
end

