-- ==== Sys2Proof/Machine/PollCycle.lean ====
section
/-! DEFINITION. The poll cycle (45_poll_cycle.md R210), phase by phase. -/

namespace Sys2Proof.Machine

/-- `Dispatch()` (42_dispatcher.md R140): the CRC gate first, then the command decode. A mismatch raises InvalidCrc with
no pin access, whatever the command byte. -/
def dispatchFrame (s : State) : Result :=
  if crcOk s then exec (decodeCmd s.par s.cmd) s else .next (raiseError .invalidCrc s)

/-- `S.last_rx <- now` (R211). -/
def noteActivity (s : State) : State := { s with lastRx := now s }

/-- Phase (a) on a received byte `b` (R211, R212): timestamp, parser, and the dispatch if a frame completed. -/
def intakeByte (b : Byte) (s : State) : Result :=
  let t := parserStep b (noteActivity s)
  if t.2 then dispatchFrame t.1 else .next t.1

/-- Phase (a). Without a byte it does nothing (R211). -/
def intake (s : State) : Result :=
  match rxByte s with
  | none => .next s
  | some b => intakeByte b s

/-- `TimeoutFire()` (43_timeout.md R171): back to `WaitStart1`, the other registers kept, TimeoutError raised. -/
def timeoutFire (s : State) : State := raiseError .timeoutError { s with state := .waitStart1 }

/-- Phase (b) (R213): evaluated in every cycle, with the same clock sample. -/
def superviseTimeout (s : State) : State := if timeoutCheck s then timeoutFire s else s

/-- Phase (c) (R214): one `SinkWrite` of the encoded response, if there is one. -/
def sendResponse (s : State) : State :=
  match s.resp with
  | none => s
  | some r => sinkWrite (encodeResponse s.par r) s

/-- `resp <- none`, the first line of R210. -/
def openCycle (s : State) : State := { s with resp := none }

/-- The cycle is over: its response and its draws are consumed, and nothing but S persists (10_state.md R20). -/
def closeCycle (s : State) : State := { s with resp := none, inputs := s.inputs.tail, cycle := s.cycle + 1 }

/-- Phases (b) and (c) and the cycle's end, from the state phase (a) left. -/
def finishCycle (s : State) : State := closeCycle (sendResponse (superviseTimeout s))

/-- `PollCycle()` (R210), of a block whose parameter record meets 00_scope.md R8; another record is refused
(93_implementation_defined.md U18; log 9). -/
def pollCycle (s : State) : Result :=
  if s.par.ok then
    match intake (openCycle s) with
    | .next t => .next (finishCycle t)
    | .fault f => .fault f
    | .refused r => .refused r
  else .refused .badParameters

/-- The state in which the next poll cycle's byte completes the CRC-valid request with command byte `c`: the first four
bytes of the frame have been taken, and the fifth is the next cycle's byte. The clock and pin draws of that cycle are
what they would have been. DESIGN CHOICE: log 10. -/
def placeRequest (c : Byte) (s : State) : State :=
  { s with
    state := .waitCrcLo
    start1 := s.par.reqM1
    start2 := s.par.reqM2
    cmd := c
    crcRx := setHiByte s.crcRx (hiByte (requestCrc s.par c))
    inputs := { currentInput s with rx := some (loByte (requestCrc s.par c)) } :: s.inputs }

end Sys2Proof.Machine
end

