-- ==== Sys2Proof/Machine/Step.lean ====
section
/-! DEFINITION. The block's one step is the poll cycle (45_poll_cycle.md R210). -/

namespace Sys2Proof.Machine

/-- One poll cycle. -/
def step (s : State) : Host.Outcome State Fault Refusal := pollCycle s

/-- Places the instruction of an opcode-table word so that the next step runs it (log 10). -/
def State.withFetchWord (s : State) (nbits w : Nat) : State := placeRequest (BitVec.ofNat 8 (w % 2 ^ nbits)) s

end Sys2Proof.Machine
end

