-- ==== Sys2Proof/Machine/Transition.lean ====
section
/-! DEFINITION. Views of the machine that the spec names but no step reads: the transition (S, in) -> (S', out) of
45_poll_cycle.md R216, and the frame notation's input side (30_encoding.md R72). -/

namespace Sys2Proof.Machine

/-- The interactions between two states of a run. -/
def eventsSince (s t : State) : List Event := t.trace.drop s.trace.length

/-- The frames handed to the sink, in order. -/
def sinkWrites (l : List Event) : List (List Byte) :=
  l.filterMap fun e => match e with
    | .sinkWrite f => some f
    | .pinWrite _ => none
    | .pinRead _ => none

/-- The levels driven onto the pin, in order. -/
def pinWrites (l : List Event) : List Level :=
  l.filterMap fun e => match e with
    | .pinWrite v => some v
    | .pinRead _ => none
    | .sinkWrite _ => none

/-- The levels read from the pin, in order. -/
def pinReads (l : List Event) : List Level :=
  l.filterMap fun e => match e with
    | .pinRead v => some v
    | .pinWrite _ => none
    | .sinkWrite _ => none

/-- One poll cycle's outputs (R216). -/
structure CycleOutput where
  tx : Option (List Byte)
  pinWr : Option Level
  deriving DecidableEq, Repr

/-- The outputs of the poll cycle that led from `s` to `t`. -/
def cycleOutput (s t : State) : CycleOutput :=
  ⟨(sinkWrites (eventsSince s t)).head?, (pinWrites (eventsSince s t)).head?⟩

/-- One poll cycle as the transition (S, in) -> (S', out) (R216); none where the step answers no next state. -/
def transition (s : State) (i : CycleInput) : Option (State × CycleOutput) :=
  match step { s with inputs := i :: s.inputs } with
  | .next t => some (t, cycleOutput s t)
  | .fault _ => none
  | .refused _ => none

/-- `BYTES`, `REQ!`, `REQ` and `RSP` as input: each byte of `l` in a poll cycle of its own (R72), whose clock sample and
pin level come from `env`. -/
def deliver (l : List Byte) (env : List (Nat × Level)) : List CycleInput :=
  List.zipWith (fun b e => ⟨some b, e.1, e.2⟩) l env

/-- A poll cycle with no byte at clock `t`: one cycle of `WAIT` (R72). -/
def waitCycle (t : Nat) (v : Level) : CycleInput := ⟨none, t, v⟩

end Sys2Proof.Machine
end

