-- ==== Sys2Proof/Safety.lean ====
section
/-! DEFINITION. What a safe run keeps, and when two states look the same from outside: the terms the claims use. -/

namespace Sys2Proof.Machine

/-- `k` poll cycles: `Host.Core.run` of this core, written over State. -/
def runCycles : Nat → State → Result
  | 0, s => .next s
  | k + 1, s =>
    match step s with
    | .next t => runCycles k t
    | .fault f => .fault f
    | .refused r => .refused r

/-- The parser is past both markers. -/
def pastMarkers (st : ParserState) : Prop := st = .waitCmd ∨ st = .waitCrcHi ∨ st = .waitCrcLo

/-- The invariant of every reachable state between poll cycles: the marker registers as 10_state.md R33 says, the
timestamp a `CLK_W`-bit value (R26), nothing persisting but S (R20), every frame sent one of the six of 30_encoding.md
R68, and the output register the level most recently driven (R27). -/
structure State.Inv (s : State) : Prop where
  parOk : s.par.ok = true
  noResp : s.resp = none
  firstMarker : s.state ≠ .waitStart1 → s.start1 = s.par.reqM1
  secondMarker : pastMarkers s.state → s.start2 = s.par.reqM2
  clock : s.lastRx < 2 ^ s.par.clkW
  framesLegal : ∀ f ∈ sinkWrites s.trace, ∃ r ∈ emittedPairs s.par, f = encodeResponse s.par r
  pinOutDriven : s.pinOut = (pinWrites s.trace).getLast?

/-- Two states that agree on everything but registers that no rule reads before writing them (10_state.md R22 to R26): a
marker, command, checksum or timestamp register counts only in the parser states in which its value is live. -/
structure State.AgreeOnLive (s t : State) : Prop where
  par : s.par = t.par
  state : s.state = t.state
  pinOut : s.pinOut = t.pinOut
  inputs : s.inputs = t.inputs
  cycle : s.cycle = t.cycle
  trace : s.trace = t.trace
  lastRx : s.state ≠ .waitStart1 → s.lastRx = t.lastRx
  start1 : s.state ≠ .waitStart1 → s.start1 = t.start1
  start2 : pastMarkers s.state → s.start2 = t.start2
  cmd : s.state = .waitCrcHi ∨ s.state = .waitCrcLo → s.cmd = t.cmd
  crcHi : s.state = .waitCrcLo → hiByte s.crcRx = hiByte t.crcRx

end Sys2Proof.Machine
end

