-- ==== Sys2Proof/Certificates/Slice0/Obligations.lean ====
section
/-! DEFINITION. The statements for the provers. Each docstring names the rule or decision of the spec it rests on. "The
cycle's bookkeeping" is the model's own: the response and the draws of the cycle are consumed and the cycle counter
advances (log 3, log 4, log 6). -/

open Sys2Proof Sys2Proof.Machine

/-! ## Frames: decoding and encoding -/

/-- R60, R61, R65: for every parameter record that meets R8, decoding an instruction's request frame gives the
instruction back, with every command byte the default arm admits, and leaves the bytes after the frame. -/
def Obligations.DecodeOfEncodedFrameIsInstruction : Prop :=
  ∀ (p : Params) (i : Instr) (rest : List Byte), p.ok = true → i.wellFormed p = true →
    decode p (encode p i ++ rest) = .ok (i, rest)

/-- R60, R61: the other direction. A byte list that decodes is the request frame of the instruction it decodes to,
followed by the bytes left over, and that instruction is well-formed. -/
def Obligations.DecodedBytesAreTheEncodedFrame : Prop :=
  ∀ (p : Params) (bs rest : List Byte) (i : Instr), decode p bs = .ok (i, rest) →
    i.wellFormed p = true ∧ bs = encode p i ++ rest

/-- R61, R70: what is no request frame is rejected under the name of what is wrong with it, the markers before the
checksum (the order of rejection is the model's, log 12). -/
def Obligations.MalformedFramesRejectedByName : Prop :=
  ∀ (p : Params) (m1 m2 c h l : Byte) (rest : List Byte),
    (∀ bs : List Byte, bs.length < 5 → decode p bs = .error .truncated) ∧
    (m1 ≠ p.reqM1 → decode p (m1 :: m2 :: c :: h :: l :: rest) = .error .badMarker1) ∧
    (m1 = p.reqM1 → m2 ≠ p.reqM2 → decode p (m1 :: m2 :: c :: h :: l :: rest) = .error .badMarker2) ∧
    (m1 = p.reqM1 → m2 = p.reqM2 → joinBytes h l ≠ crc16 p [m1, m2, c] →
      decode p (m1 :: m2 :: c :: h :: l :: rest) = .error .badCrc)

/-- R65: the command byte is decoded whole, by exact comparison; every byte that is no command code is the default arm.
-/
def Obligations.CommandMapIsExactComparison : Prop :=
  ∀ (p : Params) (c : Byte), p.ok = true →
    (decodeCmd p c = .disable ↔ c = p.cmdDisable) ∧
    (decodeCmd p c = .enable ↔ c = p.cmdEnable) ∧
    (decodeCmd p c = .getConfig ↔ c = p.cmdGetConfig) ∧
    (∀ d, decodeCmd p c = .invalid d ↔ d = c ∧ c ≠ p.cmdDisable ∧ c ≠ p.cmdEnable ∧ c ≠ p.cmdGetConfig)

/-- R73, the request rows: this hardware's canonical frames decode to the instructions they stand for. Their CRC bytes
rest on the spec's decision D4, their command bytes on D1. -/
def Obligations.CanonicalRequestFramesDecode : Prop :=
  decode thisHardware [0x57, 0x43, 0x00, 0x4F, 0x5D] = .ok (.disable, []) ∧
  decode thisHardware [0x57, 0x43, 0x01, 0x5F, 0x7C] = .ok (.enable, []) ∧
  decode thisHardware [0x57, 0x43, 0x02, 0x6F, 0x1F] = .ok (.getConfig, []) ∧
  decode thisHardware [0x57, 0x43, 0x03, 0x7F, 0x3E] = .ok (.invalid 0x03, []) ∧
  decode thisHardware [0x57, 0x43, 0xFF, 0x51, 0xAD] = .ok (.invalid 0xFF, [])

/-- R73, the response rows, R194's N = 2 frame and 95_test_vectors.md 2.5's LoFirst frame. Byte values rest on the
spec's decisions D2, D3, D4, D5, D8. -/
def Obligations.CanonicalResponseFrames : Prop :=
  encodeResponse thisHardware ⟨0x06, 0x01⟩ = [0x57, 0x52, 0x06, 0x01, 0x2A, 0xFF] ∧
  encodeResponse thisHardware ⟨0x06, 0x02⟩ = [0x57, 0x52, 0x06, 0x02, 0x1A, 0x9C] ∧
  encodeResponse thisHardware ⟨0x15, 0x04⟩ = [0x57, 0x52, 0x15, 0x04, 0x2C, 0x7A] ∧
  encodeResponse thisHardware ⟨0x15, 0x08⟩ = [0x57, 0x52, 0x15, 0x08, 0xED, 0xF6] ∧
  encodeResponse thisHardware ⟨0x15, 0x10⟩ = [0x57, 0x52, 0x15, 0x10, 0x7E, 0xCF] ∧
  encodeResponse thisHardware ⟨0x15, 0x20⟩ = [0x57, 0x52, 0x15, 0x20, 0x48, 0x9C] ∧
  encodeResponse { thisHardware with n := 2 } ⟨0x15, 0x20⟩ = [0x57, 0x52, 0x15, 0x20, 0x00, 0x55, 0xCC] ∧
  encodeResponse { thisHardware with rspCrcOrder := .loFirst } ⟨0x15, 0x20⟩ = [0x57, 0x52, 0x15, 0x20, 0x9C, 0x48]

/-! ## CRC-16 -/

/-- R120, R121: the CRC of the empty list is `CRC_INIT`, and this hardware's CRC gives the published check value on
"123456789" (spec decision D4; general knowledge G2). -/
def Obligations.CrcCheckValue : Prop :=
  (∀ p : Params, crc16 p [] = p.crcInit) ∧
  crc16 thisHardware [0x31, 0x32, 0x33, 0x34, 0x35, 0x36, 0x37, 0x38, 0x39] = 0x29B1 ∧
  crcUpdate thisHardware 0xFFFF 0xFF = 0xFF00

/-- R122: the CRC of a joined list is carried on from the CRC of its first part, byte by byte. -/
def Obligations.CrcIsIncremental : Prop :=
  ∀ (p : Params) (a b : List Byte), crc16 p (a ++ b) = b.foldl (crcUpdate p) (crc16 p a)

/-- R120's corner case, which the spec marks as general knowledge (G3), in the stronger form that any change of ONE BYTE
changes the CRC, under the x^0 premise it names: the polynomial's constant term is nonzero. -/
def Obligations.CrcDetectsAnyOneByteChange : Prop :=
  ∀ (p : Params) (a z : List Byte) (b b' : Byte), p.crcPoly.getLsbD 0 = true → b ≠ b' →
    crc16 p (a ++ b :: z) ≠ crc16 p (a ++ b' :: z)

/-- R123's corner case: "a CRC computed for one command fails for any other". A completed frame whose checksum is the
one of another command byte is answered InvalidCrc, whatever the two commands are, with no pin access (spec decision
D26). The premise on the polynomial is the one of general knowledge G3. -/
def Obligations.CrcOfAnotherCommandIsInvalidCrc : Prop :=
  ∀ (s : State) (c : Byte), s.par.crcPoly.getLsbD 0 = true → s.start1 = s.par.reqM1 → s.start2 = s.par.reqM2 →
    s.cmd ≠ c → s.crcRx = requestCrc s.par c →
    dispatchFrame s = .next { s with resp := some ⟨s.par.nakByte, s.par.stInvalidCrc⟩ }

/-! ## Response encoder -/

/-- R62, R63, R192: the response frame's length and every byte of it, for every N and both CRC orders (fill: spec
decision D8; order: D5). -/
def Obligations.ResponseFrameLayout : Prop :=
  ∀ (p : Params) (r : Response), 1 ≤ p.n →
    (encodeResponse p r).length = 5 + p.n ∧
    (encodeResponse p r)[0]? = some p.rspM1 ∧ (encodeResponse p r)[1]? = some p.rspM2 ∧
    (encodeResponse p r)[2]? = some r.ack ∧ (encodeResponse p r)[3]? = some r.status ∧
    (∀ k, 4 ≤ k → k < 3 + p.n → (encodeResponse p r)[k]? = some p.statusFill) ∧
    (p.rspCrcOrder = .hiFirst →
      (encodeResponse p r)[3 + p.n]? = some (hiByte (crc16 p ((encodeResponse p r).take (3 + p.n)))) ∧
      (encodeResponse p r)[4 + p.n]? = some (loByte (crc16 p ((encodeResponse p r).take (3 + p.n))))) ∧
    (p.rspCrcOrder = .loFirst →
      (encodeResponse p r)[3 + p.n]? = some (loByte (crc16 p ((encodeResponse p r).take (3 + p.n)))) ∧
      (encodeResponse p r)[4 + p.n]? = some (hiByte (crc16 p ((encodeResponse p r).take (3 + p.n)))))

/-- R125: a receiver that reads the CRC field in the order the block writes it always finds it right; one that reads it
in the other order does so only when the two bytes are equal. -/
def Obligations.ResponseCrcRoundTrip : Prop :=
  ∀ (p : Params) (r : Response) (o : CrcOrder), 1 ≤ p.n →
    (responseCrcMatches p o (encodeResponse p r) = true ↔
      o = p.rspCrcOrder ∨ hiByte (crc16 p (responseBody p r)) = loByte (crc16 p (responseBody p r)))

/-- R62, R190 (the ack byte stands at offset 2 and the status code at offset 3): different pairs give different frames, so
a receiver reads off which response was sent. -/
def Obligations.ResponsePairReadableFromFrame : Prop :=
  ∀ (p : Params) (r r' : Response), encodeResponse p r = encodeResponse p r' → r = r'

/-! ## Parser -/

/-- R100 (registers written on acceptance only: spec decision D31). -/
def Obligations.FirstMarkerArm : Prop :=
  ∀ (b : Byte) (s : State), s.state = .waitStart1 →
    (b = s.par.reqM1 → parserStep b s = ({ s with start1 := b, state := .waitStart2 }, false)) ∧
    (b ≠ s.par.reqM1 → parserStep b s = (s, false))

/-- R101 (the mismatching byte is not tried as a first marker: spec decision D16; D31). -/
def Obligations.SecondMarkerArm : Prop :=
  ∀ (b : Byte) (s : State), s.state = .waitStart2 →
    (b = s.par.reqM2 → parserStep b s = ({ s with start2 := b, state := .waitCmd }, false)) ∧
    (b ≠ s.par.reqM2 → parserStep b s = ({ s with state := .waitStart1 }, false))

/-- R102: every byte is taken as the command, the markers among them. -/
def Obligations.CommandByteArm : Prop :=
  ∀ (b : Byte) (s : State), s.state = .waitCmd →
    parserStep b s = ({ s with cmd := b, state := .waitCrcHi }, false)

/-- R103: the byte becomes bits 15:8 of the received checksum, bits 7:0 and everything else unchanged. -/
def Obligations.ChecksumHighArm : Prop :=
  ∀ (b : Byte) (s : State), s.state = .waitCrcHi →
    ∃ v : Word16, v.extractLsb' 8 8 = b ∧ v.extractLsb' 0 8 = s.crcRx.extractLsb' 0 8 ∧
      parserStep b s = ({ s with crcRx := v, state := .waitCrcLo }, false)

/-- R104: the byte becomes bits 7:0 of the received checksum, bits 15:8 unchanged; the frame is complete and the parser
is back in its initial state whatever the CRC and the command are. -/
def Obligations.ChecksumLowArm : Prop :=
  ∀ (b : Byte) (s : State), s.state = .waitCrcLo →
    ∃ v : Word16, v.extractLsb' 0 8 = b ∧ v.extractLsb' 8 8 = s.crcRx.extractLsb' 8 8 ∧
      parserStep b s = ({ s with crcRx := v, state := .waitStart1 }, true)

/-- R105: the completion flag. -/
def Obligations.CompletionFlagOnlyAtFifthByte : Prop :=
  ∀ (b : Byte) (s : State), (parserStep b s).2 = true ↔ s.state = .waitCrcLo

/-- R21: the 3-bit port encoding of the parser state is one-to-one onto 0 .. 4; 5, 6 and 7 stand for no state (spec
decision D30, U13). -/
def Obligations.ParserStatePortEncoding : Prop :=
  (∀ st, stateOfCode (stateCode st) = some st) ∧
  (∀ c st, stateOfCode c = some st ↔ stateCode st = c) ∧
  (∀ c : BitVec 3, stateOfCode c = none ↔ 5 ≤ c.toNat)

/-! ## Commands -/

/-- R141: DISABLE completes from every state, with the write, then the read-back, then the response (output register:
spec decision D29; the read-back is a draw: D13). -/
def Obligations.DisableDrivesAndVerifies : Prop :=
  ∀ s : State, exec .disable s = .next { s with
    pinOut := some s.par.disableLevel
    trace := s.trace ++ [.pinWrite s.par.disableLevel, .pinRead (pinLevel s)]
    resp := some (if pinLevel s = s.par.disableLevel then ⟨s.par.ackByte, s.par.stDisabled⟩
      else ⟨s.par.nakByte, s.par.stPinWriteError⟩) }

/-- R142: ENABLE, the same with the enable level. -/
def Obligations.EnableDrivesAndVerifies : Prop :=
  ∀ s : State, exec .enable s = .next { s with
    pinOut := some s.par.enableLevel
    trace := s.trace ++ [.pinWrite s.par.enableLevel, .pinRead (pinLevel s)]
    resp := some (if pinLevel s = s.par.enableLevel then ⟨s.par.ackByte, s.par.stEnabled⟩
      else ⟨s.par.nakByte, s.par.stPinWriteError⟩) }

/-- R143: GETCONFIG completes from every state: one read, no write, output register unchanged, always acknowledged; it
reports the pin as read (spec decision D7). -/
def Obligations.GetConfigReportsThePin : Prop :=
  ∀ s : State, exec .getConfig s = .next { s with
    trace := s.trace ++ [.pinRead (pinLevel s)]
    resp := some ⟨s.par.ackByte, if pinLevel s = s.par.enableLevel then s.par.stEnabled else s.par.stDisabled⟩ }

/-- R144: INVALID completes from every state, for every byte it stands for, by raising InvalidCommand; no pin access of
any kind (spec decision D25). -/
def Obligations.InvalidRaisesInvalidCommand : Prop :=
  ∀ (c : Byte) (s : State),
    exec (.invalid c) s = .next { s with resp := some ⟨s.par.nakByte, s.par.stInvalidCommand⟩ }

/-- The frame of the four instructions (42_dispatcher.md, opening: "It never writes `S.state`, `S.last_rx` or the frame
registers"; R27: no operation but DISABLE and ENABLE writes the output register; R146). Nothing of the trace before is
lost. -/
def Obligations.CommandsLeaveTheRestUnchanged : Prop :=
  ∀ (i : Instr) (s t : State), exec i s = .next t →
    t.par = s.par ∧ t.state = s.state ∧ t.start1 = s.start1 ∧ t.start2 = s.start2 ∧ t.cmd = s.cmd ∧
    t.crcRx = s.crcRx ∧ t.lastRx = s.lastRx ∧ t.inputs = s.inputs ∧ t.cycle = s.cycle ∧
    (i ≠ .disable → i ≠ .enable → t.pinOut = s.pinOut) ∧
    t.trace = s.trace ++ eventsSince s t ∧ sinkWrites (eventsSince s t) = []

/-! ## Dispatcher -/

/-- R140: the CRC gate comes before the decode. On a mismatch the answer is InvalidCrc whatever the command byte, with
no pin access (spec decision D26); otherwise the decoded command runs. -/
def Obligations.CrcGateBeforeDecode : Prop :=
  ∀ s : State,
    (s.crcRx ≠ crc16 s.par [s.start1, s.start2, s.cmd] →
      dispatchFrame s = .next { s with resp := some ⟨s.par.nakByte, s.par.stInvalidCrc⟩ }) ∧
    (s.crcRx = crc16 s.par [s.start1, s.start2, s.cmd] → dispatchFrame s = exec (decodeCmd s.par s.cmd) s)

/-- R235: which error, if any, one completed frame is answered with: the CRC mismatch first, then the unknown command,
then the failed read-back; GETCONFIG has none. -/
def Obligations.ErrorPriorityInOneFrame : Prop :=
  ∀ (s t : State), s.par.ok = true → dispatchFrame s = .next t →
    (t.resp = some ⟨s.par.nakByte, s.par.stInvalidCrc⟩ ↔ s.crcRx ≠ crc16 s.par [s.start1, s.start2, s.cmd]) ∧
    (t.resp = some ⟨s.par.nakByte, s.par.stInvalidCommand⟩ ↔
      s.crcRx = crc16 s.par [s.start1, s.start2, s.cmd] ∧
        s.cmd ≠ s.par.cmdDisable ∧ s.cmd ≠ s.par.cmdEnable ∧ s.cmd ≠ s.par.cmdGetConfig) ∧
    (t.resp = some ⟨s.par.nakByte, s.par.stPinWriteError⟩ ↔
      s.crcRx = crc16 s.par [s.start1, s.start2, s.cmd] ∧
        ((s.cmd = s.par.cmdDisable ∧ pinLevel s ≠ s.par.disableLevel) ∨
          (s.cmd = s.par.cmdEnable ∧ pinLevel s ≠ s.par.enableLevel)))

/-- R146: the pin accesses and the output register of every dispatch, case by case. -/
def Obligations.PinAccessesPerDispatch : Prop :=
  ∀ (s t : State), s.par.ok = true → dispatchFrame s = .next t →
    (s.crcRx ≠ crc16 s.par [s.start1, s.start2, s.cmd] → eventsSince s t = [] ∧ t.pinOut = s.pinOut) ∧
    (s.crcRx = crc16 s.par [s.start1, s.start2, s.cmd] →
      (s.cmd = s.par.cmdDisable → t.pinOut = some s.par.disableLevel ∧
        eventsSince s t = [.pinWrite s.par.disableLevel, .pinRead (pinLevel s)]) ∧
      (s.cmd = s.par.cmdEnable → t.pinOut = some s.par.enableLevel ∧
        eventsSince s t = [.pinWrite s.par.enableLevel, .pinRead (pinLevel s)]) ∧
      (s.cmd = s.par.cmdGetConfig → t.pinOut = s.pinOut ∧ eventsSince s t = [.pinRead (pinLevel s)]) ∧
      (s.cmd ≠ s.par.cmdDisable → s.cmd ≠ s.par.cmdEnable → s.cmd ≠ s.par.cmdGetConfig →
        t.pinOut = s.pinOut ∧ eventsSince s t = []))

/-- R147: the answer to a completed frame depends on `crc_ok`, the command byte and the level read, and on nothing else:
not on the clock, the output register or anything earlier. -/
def Obligations.DispatchDependsOnlyOnFrameAndPin : Prop :=
  ∀ (s s' t t' : State), s.par = s'.par → crcOk s = crcOk s' → s.cmd = s'.cmd → pinLevel s = pinLevel s' →
    dispatchFrame s = .next t → dispatchFrame s' = .next t' →
    t.resp = t'.resp ∧ eventsSince s t = eventsSince s' t'

/-- R145, over a whole poll cycle (its interactions: R146, R214): if a cycle drove the pin to `v` and sent an acknowledgement, then the pin read right
after the write gave `v`, and the status sent is the one of `v`. -/
def Obligations.AcknowledgedPinActionsAreConfirmed : Prop :=
  ∀ (s t : State) (v : Level) (st : Byte), step s = .next t →
    .pinWrite v ∈ eventsSince s t → .sinkWrite (encodeResponse s.par ⟨s.par.ackByte, st⟩) ∈ eventsSince s t →
    eventsSince s t = [.pinWrite v, .pinRead v, .sinkWrite (encodeResponse s.par ⟨s.par.ackByte, st⟩)] ∧
    ((v = s.par.disableLevel ∧ st = s.par.stDisabled) ∨ (v = s.par.enableLevel ∧ st = s.par.stEnabled))

/-- R12 (codes: R230): raising an error makes (`NAK_BYTE`, `ST_E`) the response, `respond` the pair it is given, and
neither touches anything else: no saved state, no mode, no transfer, no pin access. -/
def Obligations.RaisingAnErrorOnlySetsTheResponse : Prop :=
  ∀ s : State,
    raiseError .invalidCrc s = { s with resp := some ⟨s.par.nakByte, s.par.stInvalidCrc⟩ } ∧
    raiseError .invalidCommand s = { s with resp := some ⟨s.par.nakByte, s.par.stInvalidCommand⟩ } ∧
    raiseError .pinWriteError s = { s with resp := some ⟨s.par.nakByte, s.par.stPinWriteError⟩ } ∧
    raiseError .timeoutError s = { s with resp := some ⟨s.par.nakByte, s.par.stTimeoutError⟩ } ∧
    ∀ a st : Byte, respond a st s = { s with resp := some ⟨a, st⟩ }

/-! ## Timeout supervisor -/

/-- R170, R172: when the supervisor fires (strict comparison: spec decision D17; one modular subtraction: D9). -/
def Obligations.TimeoutFiresStrictlyPastThreshold : Prop :=
  ∀ s : State, timeoutCheck s = true ↔
    s.state ≠ .waitStart1 ∧ (s.par.timeoutMs : Int) < ((now s : Int) - s.lastRx) % (2 ^ s.par.clkW : Nat)

/-- R175: a wrap of the clock does not change the elapsed time as long as fewer than `2^CLK_W` ms passed. -/
def Obligations.ElapsedTimeAcrossClockWrap : Prop :=
  ∀ (w last d : Nat), last < 2 ^ w → d < 2 ^ w → elapsed w ((last + d) % 2 ^ w) last = d

/-- R171, R214, as a whole poll cycle: a byte-less cycle in which the condition holds answers the TimeoutError frame at
once and returns the parser to `WaitStart1`; the timestamp, the output register and the frame registers stay (spec
decision D28), and there is no pin access (D27). -/
def Obligations.TimeoutCycle : Prop :=
  ∀ s : State, s.par.ok = true → rxByte s = none → timeoutCheck s = true →
    step s = .next { s with
      state := .waitStart1
      resp := none
      inputs := s.inputs.tail
      cycle := s.cycle + 1
      trace := s.trace ++ [.sinkWrite (encodeResponse s.par ⟨s.par.nakByte, s.par.stTimeoutError⟩)] }

/-- R172: idle in the initial state the supervisor never fires, whatever time has passed; so a byte-less cycle changes
nothing (R217) but the cycle's bookkeeping, which is the model's own (log 3, log 4, log 6). -/
def Obligations.NoTimeoutWhileIdle : Prop :=
  ∀ s : State, s.state = .waitStart1 →
    timeoutCheck s = false ∧
    (s.par.ok = true → rxByte s = none →
      step s = .next { s with resp := none, inputs := s.inputs.tail, cycle := s.cycle + 1 })

/-- R217: a cycle with no byte and no firing changes nothing in S and produces no output. -/
def Obligations.QuietCycleChangesNothing : Prop :=
  ∀ s : State, s.par.ok = true → rxByte s = none → timeoutCheck s = false →
    step s = .next { s with resp := none, inputs := s.inputs.tail, cycle := s.cycle + 1 }

/-- R173: no timeout in a cycle that receives a byte, however long the loop was stalled before it. -/
def Obligations.NoTimeoutInACycleWithAByte : Prop :=
  ∀ (s t : State) (b : Byte), rxByte s = some b → step s = .next t →
    .sinkWrite (encodeResponse s.par ⟨s.par.nakByte, s.par.stTimeoutError⟩) ∉ eventsSince s t

/-- R174: a partial frame is timed out in the first byte-less cycle whose clock sample is more than `TIMEOUT_MS` past the
last byte, and in no cycle before it, however many byte-less cycles run and whatever the clock does meanwhile. -/
def Obligations.TimeoutInFirstLateCycle : Prop :=
  ∀ (s : State) (waiting : List CycleInput) (late : CycleInput) (more : List CycleInput),
    s.par.ok = true → s.state ≠ .waitStart1 → s.inputs = waiting ++ late :: more →
    (∀ i ∈ waiting, i.rx = none ∧ elapsed s.par.clkW (i.now % 2 ^ s.par.clkW) s.lastRx ≤ s.par.timeoutMs) →
    late.rx = none → s.par.timeoutMs < elapsed s.par.clkW (late.now % 2 ^ s.par.clkW) s.lastRx →
    (∃ t, runCycles waiting.length s = .next t ∧ t.state = s.state ∧ t.lastRx = s.lastRx ∧ t.trace = s.trace) ∧
    (∃ t, runCycles (waiting.length + 1) s = .next t ∧ t.state = .waitStart1 ∧ t.lastRx = s.lastRx ∧
      t.trace = s.trace ++ [.sinkWrite (encodeResponse s.par ⟨s.par.nakByte, s.par.stTimeoutError⟩)])

/-! ## Poll cycle -/

/-- A STEP RUNS THE DECODED INSTRUCTION (R140, R212, R214): when the fifth byte arrives and the five bytes decode to
`i`, the step is `exec i` at the state in which the byte has been taken, followed by the send and the cycle's
bookkeeping; the supervisor adds nothing. -/
def Obligations.StepRunsTheDecodedInstruction : Prop :=
  ∀ (s : State) (b : Byte) (i : Instr), s.par.ok = true → s.state = .waitCrcLo → rxByte s = some b →
    decode s.par [s.start1, s.start2, s.cmd, hiByte s.crcRx, b] = .ok (i, []) →
    step s = match exec i { s with
        lastRx := now s, crcRx := joinBytes (hiByte s.crcRx) b, state := .waitStart1, resp := none } with
      | .next t => .next (closeCycle (sendResponse t))
      | .fault f => .fault f
      | .refused r => .refused r

/-- R140, as a whole poll cycle: a completed frame whose checksum is wrong is answered with the InvalidCrc frame in the
same cycle, whatever its command byte, with no pin access (spec decision D26). -/
def Obligations.BadChecksumCycle : Prop :=
  ∀ (s : State) (b : Byte), s.par.ok = true → s.state = .waitCrcLo → rxByte s = some b →
    joinBytes (hiByte s.crcRx) b ≠ crc16 s.par [s.start1, s.start2, s.cmd] →
    step s = .next { s with
      lastRx := now s
      crcRx := joinBytes (hiByte s.crcRx) b
      state := .waitStart1
      resp := none
      inputs := s.inputs.tail
      cycle := s.cycle + 1
      trace := s.trace ++ [.sinkWrite (encodeResponse s.par ⟨s.par.nakByte, s.par.stInvalidCrc⟩)] }

/-- The model's own placing of an opcode-table word (log 10): the next step runs exactly the instruction whose command
byte the word is, for every byte and from every state. -/
def Obligations.PlacedWordRunsNext : Prop :=
  ∀ (s : State) (w : Nat), s.par.ok = true → w < 256 → ∃ u : State,
    u.par = s.par ∧ u.cmd = BitVec.ofNat 8 w ∧ u.pinOut = s.pinOut ∧ u.trace = s.trace ∧ pinLevel u = pinLevel s ∧
    step (s.withFetchWord 8 w) = match exec (decodeCmd s.par (BitVec.ofNat 8 w)) u with
      | .next t => .next (closeCycle (sendResponse t))
      | .fault f => .fault f
      | .refused r => .refused r

/-- R231: the two silent conditions. A wrong first or second marker byte produces no output. Its time is noted (R211) and
the parser is in `WaitStart1` after it (R100, R101; for a `REQ_M1` in `WaitStart2` this is the spec's decision D16, log
18). The cycle's bookkeeping is the model's own (log 3, log 4, log 6). -/
def Obligations.MarkerMismatchIsSilent : Prop :=
  ∀ (s : State) (b : Byte), s.par.ok = true → rxByte s = some b →
    (s.state = .waitStart1 ∧ b ≠ s.par.reqM1 ∨ s.state = .waitStart2 ∧ b ≠ s.par.reqM2) →
    step s = .next { s with
      lastRx := now s
      state := .waitStart1
      resp := none
      inputs := s.inputs.tail
      cycle := s.cycle + 1 }

/-- R211, read at the end of the cycle. A received byte, kept by the parser or not, is noted in `S.last_rx` and given to
the parser once, and neither the dispatch (42_dispatcher.md, opening) nor the supervisor (R173) changes what the parser
left. Without a byte the registers stay, a firing included (R171, spec decision D28). That a cycle consumes its draws
whole is the model's choice (log 3). -/
def Obligations.ByteIntake : Prop :=
  ∀ (s t : State), step s = .next t →
    t.inputs = s.inputs.tail ∧
    (∀ b, rxByte s = some b → t.lastRx = now s ∧
      t.state = (parserStep b s).1.state ∧ t.start1 = (parserStep b s).1.start1 ∧
      t.start2 = (parserStep b s).1.start2 ∧ t.cmd = (parserStep b s).1.cmd ∧
      t.crcRx = (parserStep b s).1.crcRx) ∧
    (rxByte s = none → t.lastRx = s.lastRx ∧ t.start1 = s.start1 ∧ t.start2 = s.start2 ∧ t.cmd = s.cmd ∧
      t.crcRx = s.crcRx ∧ t.pinOut = s.pinOut)

/-- R210: the step is total. Every build that meets R8 has a next state from every state and for every draw; a record
that breaks R8 is refused by name (U18, log 9). -/
def Obligations.StepIsTotal : Prop :=
  ∀ s : State,
    (s.par.ok = true → ∃ t, step s = .next t) ∧
    (s.par.ok = false → step s = .refused .badParameters)

/-- R215, R216, R49: what one poll cycle does at its interfaces, in order: at most one pin write, at most one pin read
after it, at most one frame after both; so the cycle's outputs `tx` and `pin_wr` say all it put out. -/
def Obligations.CycleOutputsSayEverything : Prop :=
  ∀ (s t : State), step s = .next t →
    t.trace = s.trace ++ eventsSince s t ∧
    ∃ rd : Option Level, eventsSince s t =
      (cycleOutput s t).pinWr.toList.map .pinWrite ++ rd.toList.map .pinRead ++
        (cycleOutput s t).tx.toList.map .sinkWrite

/-- R7, R30, R51: no received byte and no passing of time changes a build-time parameter. -/
def Obligations.ParametersNeverChange : Prop :=
  ∀ (s t : State), step s = .next t → t.par = s.par

/-- R26, R27, R33, R68: the invariant of 10_state.md holds after every poll cycle that starts in it, for every build
and every draw. -/
def Obligations.StepKeepsInvariant : Prop :=
  ∀ (s t : State), s.Inv → step s = .next t → t.Inv

/-- R33: "Reset establishes it", for every build that meets R8. -/
def Obligations.ResetMeetsInvariant : Prop :=
  ∀ p : Params, p.ok = true → (State.resetWith p).Inv

/-- R33's last clause: in `WaitCrcLo` the high half of the checksum register holds the byte received in `WaitCrcHi`; the
cycle that receives it writes it, and cycles that stay in `WaitCrcLo` keep it. -/
def Obligations.ChecksumHighByteHeld : Prop :=
  ∀ (s t : State), step s = .next t → t.state = .waitCrcLo →
    (s.state = .waitCrcLo ∧ t.crcRx = s.crcRx) ∨
    (s.state = .waitCrcHi ∧ ∃ b, rxByte s = some b ∧ hiByte t.crcRx = b)

/-- R108, R212: a request frame delivered one byte per poll cycle from `WaitStart1` runs its instruction in the fifth
cycle, for every build, every instruction, every clock and pin draw: four silent cycles, then the instruction at the
state in which the frame registers hold the frame, then the send. -/
def Obligations.FrameOverFiveCyclesRunsInstruction : Prop :=
  ∀ (s : State) (i : Instr) (e1 e2 e3 e4 e5 : Nat × Level) (more : List CycleInput),
    s.par.ok = true → i.wellFormed s.par = true → s.state = .waitStart1 →
    s.inputs = deliver (encode s.par i) [e1, e2, e3, e4, e5] ++ more →
    runCycles 5 s = match exec i { s with
        start1 := s.par.reqM1
        start2 := s.par.reqM2
        cmd := i.cmdByte s.par
        crcRx := requestCrc s.par (i.cmdByte s.par)
        lastRx := e5.1 % 2 ^ s.par.clkW
        resp := none
        inputs := ⟨some (loByte (requestCrc s.par (i.cmdByte s.par))), e5.1, e5.2⟩ :: more
        cycle := s.cycle + 4 } with
      | .next t => .next (closeCycle (sendResponse t))
      | .fault f => .fault f
      | .refused r => .refused r

/-- R218: never permanently stuck. Along any cycles that bring four more bytes, whatever the bytes, the byte-less cycles
between them, the draws and the start state, the parser is at some point in `WaitStart1`; and one byte-less cycle past
the threshold brings it there too. -/
def Obligations.ParserReturnsToInitialState : Prop :=
  (∀ (s : State) (n : Nat), s.par.ok = true → n ≤ s.inputs.length →
    4 ≤ (s.inputs.take n).countP (fun i => i.rx.isSome) →
    ∃ k t, k ≤ n ∧ runCycles k s = .next t ∧ t.state = .waitStart1) ∧
  (∀ s : State, s.par.ok = true → rxByte s = none →
    s.par.timeoutMs < elapsed s.par.clkW (now s) s.lastRx → ∃ t, step s = .next t ∧ t.state = .waitStart1)

/-- R27: "No rule of the block reads `S.pin_out`". Two states that differ only in the output register do the same at
every interface and stay equal but for it. -/
def Obligations.OutputRegisterIsNeverRead : Prop :=
  ∀ (s t : State) (x : Option Level), step s = .next t →
    ∃ y : Option Level, step { s with pinOut := x } = .next { t with pinOut := y }

/-- The model's own trace (log 5; R42 asks for it) is an output: no step reads it, so what a cycle does is the same
whatever was recorded before. -/
def Obligations.TraceIsNeverRead : Prop :=
  ∀ (s t : State) (x : List Event), step s = .next t →
    step { s with trace := x } = .next { t with trace := x ++ eventsSince s t }

/-- R22 to R26, R28, R263 (spec decisions D12, D28): what a register holds after its frame is dispatched or discarded,
and at reset, is unobservable. States that agree on the live registers answer alike, at every interface, and agree
again after the step. -/
def Obligations.StaleRegistersAreUnobservable : Prop :=
  ∀ (s t s' : State), s.AgreeOnLive t → step s = .next s' → ∃ t', step t = .next t' ∧ s'.AgreeOnLive t'

/-- R260, R8: the state after reset, and that this hardware's parameters meet the constraints (the source gives `WaitStart1`; the other values of S are the spec's decision D12; the
empty draws, trace and counter are the model's, log 3, log 4, log 5). Reset has no output (R261). -/
def Obligations.ResetState : Prop :=
  State.reset.par = thisHardware ∧ thisHardware.ok = true ∧ State.reset.state = .waitStart1 ∧ State.reset.start1 = 0x00 ∧
  State.reset.start2 = 0x00 ∧ State.reset.cmd = 0x00 ∧ State.reset.crcRx = 0x0000 ∧ State.reset.lastRx = 0 ∧
  State.reset.pinOut = none ∧ State.reset.trace = []

/-! ## Hazards -/

/-- R265 (spec decision D16): a doubled first marker loses the frame. The stream M1 M1 M2 ends in `WaitStart1` with no
output, where a parser that looked back would be waiting for the command byte. (The premise that the two markers differ
is this hardware's; R8 does not ask it.) -/
def Obligations.DoubledFirstMarkerLosesTheFrame : Prop :=
  ∀ (s : State) (e1 e2 e3 : Nat × Level) (more : List CycleInput), s.par.ok = true →
    s.par.reqM1 ≠ s.par.reqM2 → s.state = .waitStart1 →
    s.inputs = deliver [s.par.reqM1, s.par.reqM1, s.par.reqM2] [e1, e2, e3] ++ more →
    ∃ t, runCycles 3 s = .next t ∧ t.state = .waitStart1 ∧ t.trace = s.trace ∧
      t.inputs = more

/-- R267: on this hardware, each of the six responses (R68), looped back into the byte source while the parser is idle,
is consumed silently. -/
def Obligations.LoopedBackResponseIsSilent : Prop :=
  ∀ (s : State) (r : Response) (e1 e2 e3 e4 e5 e6 : Nat × Level) (more : List CycleInput),
    s.par = thisHardware → r ∈ emittedPairs thisHardware → s.state = .waitStart1 →
    s.inputs = deliver (encodeResponse thisHardware r) [e1, e2, e3, e4, e5, e6] ++ more →
    ∃ t, runCycles 6 s = .next t ∧ t.state = .waitStart1 ∧ t.trace = s.trace ∧
      t.pinOut = s.pinOut ∧ t.inputs = more
end

