-- ==== Sys2Proof/Laws/Data.lean ====
section
/-! SUPPORT. Laws of the byte, CRC, parameter and frame functions. -/

namespace Sys2Proof

namespace Machine

@[simp] theorem hiByte_joinBytes (h l : Byte) : hiByte (joinBytes h l) = h := by
  ext i hi
  simp only [hiByte, joinBytes, BitVec.getElem_extractLsb', BitVec.getLsbD_append]
  simp [hi]

@[simp] theorem loByte_joinBytes (h l : Byte) : loByte (joinBytes h l) = l := by
  ext i hi
  simp only [loByte, joinBytes, BitVec.getElem_extractLsb', BitVec.getLsbD_append]
  simp [hi]

@[simp] theorem joinBytes_hiByte_loByte (v : Word16) : joinBytes (hiByte v) (loByte v) = v := by
  apply BitVec.eq_of_getLsbD_eq
  intro i hi
  simp only [joinBytes, hiByte, loByte, BitVec.getLsbD_append, BitVec.getLsbD_extractLsb']
  by_cases h : i < 8
  · simp [h]
  · have : i - 8 < 8 := by omega
    simp [h, this, show 8 + (i - 8) = i by omega]

theorem joinBytes_eq_iff (h l : Byte) (v : Word16) : joinBytes h l = v ↔ h = hiByte v ∧ l = loByte v := by
  constructor
  · rintro rfl; simp
  · rintro ⟨rfl, rfl⟩; simp

@[simp] theorem hiByte_setHiByte (v : Word16) (b : Byte) : hiByte (setHiByte v b) = b := by simp [setHiByte]
@[simp] theorem loByte_setHiByte (v : Word16) (b : Byte) : loByte (setHiByte v b) = loByte v := by simp [setHiByte]
@[simp] theorem hiByte_setLoByte (v : Word16) (b : Byte) : hiByte (setLoByte v b) = hiByte v := by simp [setLoByte]
@[simp] theorem loByte_setLoByte (v : Word16) (b : Byte) : loByte (setLoByte v b) = b := by simp [setLoByte]

/-- With a nonzero constant term the shift loses nothing: bit 0 of the result says which branch was taken. -/
theorem crcShift_injective {poly : Word16} (h0 : poly.getLsbD 0 = true) : Function.Injective (crcShift poly) := by
  have low (c : Word16) : (crcShift poly c).getLsbD 0 = c.msb := by
    unfold crcShift; split <;> simp_all
  have rest (c : Word16) (i : Nat) (hi : i < 15) :
      (crcShift poly c).getLsbD (i + 1) = (c.getLsbD i ^^ (c.msb && poly.getLsbD (i + 1))) := by
    have h1 : i + 1 < 16 := by omega
    have h2 : i < 16 := by omega
    unfold crcShift; split <;> simp_all [BitVec.getLsbD_eq_getElem]
  intro c d h
  have hm : c.msb = d.msb := by rw [← low, ← low, h]
  apply BitVec.eq_of_getLsbD_eq
  intro i hi
  by_cases h15 : i < 15
  · have := rest c i h15
    rw [h, rest d i h15, hm] at this
    simpa using this.symm
  · obtain rfl : i = 15 := by omega
    simpa [BitVec.msb_eq_getLsbD_last] using hm

theorem crcShifts_injective {poly : Word16} (h0 : poly.getLsbD 0 = true) (k : Nat) :
    Function.Injective (crcShifts poly k) := by
  induction k with
  | zero => exact fun _ _ h => h
  | succ k ih => exact fun _ _ h => crcShift_injective h0 (ih h)

/-- Folding one byte in is one-to-one in the register. -/
theorem crcUpdate_injective {p : Params} (h0 : p.crcPoly.getLsbD 0 = true) (b : Byte) :
    Function.Injective (fun c => crcUpdate p c b) := by
  intro c d h
  have := crcShifts_injective h0 8 h
  simpa using this

theorem crcFrom_injective {p : Params} (h0 : p.crcPoly.getLsbD 0 = true) (l : List Byte) :
    Function.Injective (fun c => crcFrom p c l) := by
  induction l with
  | nil => exact fun _ _ h => h
  | cons b l ih => exact fun _ _ h => crcUpdate_injective h0 b (ih h)

/-- Folding one byte in is one-to-one in the byte. -/
theorem crcUpdate_injective_byte {p : Params} (h0 : p.crcPoly.getLsbD 0 = true) (c : Word16) :
    Function.Injective (crcUpdate p c) := by
  intro b b' h
  have h := crcShifts_injective h0 8 h
  have h : (b.zeroExtend 16 <<< 8 : Word16) = b'.zeroExtend 16 <<< 8 := by simpa using h
  apply BitVec.eq_of_getLsbD_eq
  intro i hi
  have := congrArg (·.getLsbD (i + 8)) h
  have h1 : i + 8 < 16 := by omega
  have h2 : i < 16 := by omega
  simpa [h1, h2] using this

theorem crcFrom_append (p : Params) (c : Word16) (a b : List Byte) :
    crcFrom p c (a ++ b) = crcFrom p (crcFrom p c a) b := by simp [crcFrom]

@[simp] theorem responseBody_length (p : Params) (r : Response) :
    (responseBody p r).length = 4 + (p.n - 1) := by simp [responseBody]; omega

@[simp] theorem crcBytes_length (o : CrcOrder) (c : Word16) : (crcBytes o c).length = 2 := by cases o <;> rfl

/-- The body and the two CRC bytes of a response frame are found where R62 says. -/
theorem encodeResponse_take_drop (p : Params) (r : Response) (h : 1 ≤ p.n) :
    (encodeResponse p r).take (3 + p.n) = responseBody p r ∧
    (encodeResponse p r).drop (3 + p.n) = crcBytes p.rspCrcOrder (crc16 p (responseBody p r)) := by
  have hl : 3 + p.n = (responseBody p r).length := by simp; omega
  simp [encodeResponse, hl]

/-- The pair stands in the frame at offsets 2 and 3. -/
theorem encodeResponse_injective (p : Params) : Function.Injective (encodeResponse p) := by
  rintro ⟨a, st⟩ ⟨a', st'⟩ h
  simp only [encodeResponse, responseBody, List.cons_append, List.nil_append, List.cons.injEq, true_and] at h
  simp [h.1, h.2.1]

end Machine

/-- What R8 asks of a parameter record, as facts. -/
theorem Params.ok_iff (p : Params) : p.ok = true ↔
    p.cmdDisable ≠ p.cmdEnable ∧ p.cmdDisable ≠ p.cmdGetConfig ∧ p.cmdEnable ≠ p.cmdGetConfig ∧
    p.ackByte ≠ p.nakByte ∧ p.statusCodes.Nodup ∧ (p.rspM1, p.rspM2) ≠ (p.reqM1, p.reqM2) ∧
    p.enableLevel ≠ p.disableLevel ∧ 1 ≤ p.n ∧ p.timeoutMs < 2 ^ p.clkW := by
  simp only [Params.ok, decide_eq_true_eq]

theorem thisHardware_ok : thisHardware.ok = true := by decide

/-- `decode` on five bytes or more, without its pattern match. -/
theorem decode_five (p : Params) (m1 m2 c h l : Byte) (rest : List Byte) :
    decode p (m1 :: m2 :: c :: h :: l :: rest) =
      if m1 ≠ p.reqM1 then .error .badMarker1
      else if m2 ≠ p.reqM2 then .error .badMarker2
      else if Machine.joinBytes h l ≠ Machine.crc16 p [m1, m2, c] then .error .badCrc
      else .ok (decodeCmd p c, rest) := rfl

/-- A frame with the checksum of its command decodes to that command, whatever the command byte. -/
theorem decode_request (p : Params) (c : Byte) (rest : List Byte) :
    decode p (request p c ++ rest) = .ok (decodeCmd p c, rest) := by
  simp [request, requestWith, requestCrc, decode_five]

/-- What follows from a successful decode. -/
theorem decode_ok_inv {p : Params} {m1 m2 c h l : Byte} {rest r : List Byte} {i : Instr}
    (hd : decode p (m1 :: m2 :: c :: h :: l :: rest) = .ok (i, r)) :
    m1 = p.reqM1 ∧ m2 = p.reqM2 ∧ Machine.joinBytes h l = Machine.crc16 p [m1, m2, c] ∧ i = decodeCmd p c ∧
      r = rest := by
  rw [decode_five] at hd
  split at hd
  · simp at hd
  · split at hd
    · simp at hd
    · split at hd
      · simp at hd
      · simp only [Except.ok.injEq, Prod.mk.injEq] at hd
        exact ⟨by simp_all, by simp_all, by simp_all, hd.1.symm, hd.2.symm⟩

theorem decodeCmd_wellFormed (p : Params) (c : Byte) : (decodeCmd p c).wellFormed p = true := by
  unfold decodeCmd; split
  · rfl
  · split
    · rfl
    · split
      · rfl
      · simp_all [Instr.wellFormed]

theorem cmdByte_decodeCmd (p : Params) (c : Byte) : (decodeCmd p c).cmdByte p = c := by
  unfold decodeCmd; split
  · simp_all [Instr.cmdByte]
  · split
    · simp_all [Instr.cmdByte]
    · split <;> simp_all [Instr.cmdByte]

end Sys2Proof
end

