-- ==== Sys2Proof/Laws/PerInstr.lean ====
section
/-! SUPPORT. The family CmdByte: one lemma per instruction, that the command map reads its command byte back. -/

namespace Sys2Proof.Laws.CmdByte

/-- The command byte of a well-formed instruction decodes to it (30_encoding.md R65). -/
def Statement (i : Instr) : Prop :=
  ∀ p : Params, p.ok = true → i.wellFormed p = true → decodeCmd p (i.cmdByte p) = i

theorem disable : Statement .disable := fun p _ _ => by simp [decodeCmd, Instr.cmdByte]

theorem enable : Statement .enable := fun p hp _ => by
  have h := (Params.ok_iff p).1 hp
  simp [decodeCmd, Instr.cmdByte, Ne.symm h.1]

theorem getConfig : Statement .getConfig := fun p hp _ => by
  have h := (Params.ok_iff p).1 hp
  simp [decodeCmd, Instr.cmdByte, Ne.symm h.2.1, Ne.symm h.2.2.1]

theorem invalid (c : Byte) : Statement (.invalid c) := fun p _ hw => by
  simp_all [decodeCmd, Instr.cmdByte, Instr.wellFormed]

end Sys2Proof.Laws.CmdByte
end

