-- ==== Sys2Proof/Laws/State.lean ====
section
/-! SUPPORT. One lemma per field for each operation that updates the state: what the operation leaves there. -/

namespace Sys2Proof.Machine

@[simp] theorem record_par (e : Event) (s : State) : (record e s).par = s.par := rfl
@[simp] theorem record_state (e : Event) (s : State) : (record e s).state = s.state := rfl
@[simp] theorem record_start1 (e : Event) (s : State) : (record e s).start1 = s.start1 := rfl
@[simp] theorem record_start2 (e : Event) (s : State) : (record e s).start2 = s.start2 := rfl
@[simp] theorem record_cmd (e : Event) (s : State) : (record e s).cmd = s.cmd := rfl
@[simp] theorem record_crcRx (e : Event) (s : State) : (record e s).crcRx = s.crcRx := rfl
@[simp] theorem record_lastRx (e : Event) (s : State) : (record e s).lastRx = s.lastRx := rfl
@[simp] theorem record_pinOut (e : Event) (s : State) : (record e s).pinOut = s.pinOut := rfl
@[simp] theorem record_resp (e : Event) (s : State) : (record e s).resp = s.resp := rfl
@[simp] theorem record_inputs (e : Event) (s : State) : (record e s).inputs = s.inputs := rfl
@[simp] theorem record_cycle (e : Event) (s : State) : (record e s).cycle = s.cycle := rfl
@[simp] theorem record_trace (e : Event) (s : State) : (record e s).trace = s.trace ++ [e] := rfl

@[simp] theorem pinRead_par (s : State) : (pinRead s).par = s.par := rfl
@[simp] theorem pinRead_state (s : State) : (pinRead s).state = s.state := rfl
@[simp] theorem pinRead_start1 (s : State) : (pinRead s).start1 = s.start1 := rfl
@[simp] theorem pinRead_start2 (s : State) : (pinRead s).start2 = s.start2 := rfl
@[simp] theorem pinRead_cmd (s : State) : (pinRead s).cmd = s.cmd := rfl
@[simp] theorem pinRead_crcRx (s : State) : (pinRead s).crcRx = s.crcRx := rfl
@[simp] theorem pinRead_lastRx (s : State) : (pinRead s).lastRx = s.lastRx := rfl
@[simp] theorem pinRead_pinOut (s : State) : (pinRead s).pinOut = s.pinOut := rfl
@[simp] theorem pinRead_resp (s : State) : (pinRead s).resp = s.resp := rfl
@[simp] theorem pinRead_inputs (s : State) : (pinRead s).inputs = s.inputs := rfl
@[simp] theorem pinRead_cycle (s : State) : (pinRead s).cycle = s.cycle := rfl
@[simp] theorem pinRead_trace (s : State) : (pinRead s).trace = s.trace ++ [.pinRead (pinLevel s)] := rfl

@[simp] theorem pinWrite_par (v : Level) (s : State) : (pinWrite v s).par = s.par := rfl
@[simp] theorem pinWrite_state (v : Level) (s : State) : (pinWrite v s).state = s.state := rfl
@[simp] theorem pinWrite_start1 (v : Level) (s : State) : (pinWrite v s).start1 = s.start1 := rfl
@[simp] theorem pinWrite_start2 (v : Level) (s : State) : (pinWrite v s).start2 = s.start2 := rfl
@[simp] theorem pinWrite_cmd (v : Level) (s : State) : (pinWrite v s).cmd = s.cmd := rfl
@[simp] theorem pinWrite_crcRx (v : Level) (s : State) : (pinWrite v s).crcRx = s.crcRx := rfl
@[simp] theorem pinWrite_lastRx (v : Level) (s : State) : (pinWrite v s).lastRx = s.lastRx := rfl
@[simp] theorem pinWrite_pinOut (v : Level) (s : State) : (pinWrite v s).pinOut = some v := rfl
@[simp] theorem pinWrite_resp (v : Level) (s : State) : (pinWrite v s).resp = s.resp := rfl
@[simp] theorem pinWrite_inputs (v : Level) (s : State) : (pinWrite v s).inputs = s.inputs := rfl
@[simp] theorem pinWrite_cycle (v : Level) (s : State) : (pinWrite v s).cycle = s.cycle := rfl
@[simp] theorem pinWrite_trace (v : Level) (s : State) : (pinWrite v s).trace = s.trace ++ [.pinWrite v] := rfl

@[simp] theorem sinkWrite_par (l : List Byte) (s : State) : (sinkWrite l s).par = s.par := rfl
@[simp] theorem sinkWrite_state (l : List Byte) (s : State) : (sinkWrite l s).state = s.state := rfl
@[simp] theorem sinkWrite_start1 (l : List Byte) (s : State) : (sinkWrite l s).start1 = s.start1 := rfl
@[simp] theorem sinkWrite_start2 (l : List Byte) (s : State) : (sinkWrite l s).start2 = s.start2 := rfl
@[simp] theorem sinkWrite_cmd (l : List Byte) (s : State) : (sinkWrite l s).cmd = s.cmd := rfl
@[simp] theorem sinkWrite_crcRx (l : List Byte) (s : State) : (sinkWrite l s).crcRx = s.crcRx := rfl
@[simp] theorem sinkWrite_lastRx (l : List Byte) (s : State) : (sinkWrite l s).lastRx = s.lastRx := rfl
@[simp] theorem sinkWrite_pinOut (l : List Byte) (s : State) : (sinkWrite l s).pinOut = s.pinOut := rfl
@[simp] theorem sinkWrite_resp (l : List Byte) (s : State) : (sinkWrite l s).resp = s.resp := rfl
@[simp] theorem sinkWrite_inputs (l : List Byte) (s : State) : (sinkWrite l s).inputs = s.inputs := rfl
@[simp] theorem sinkWrite_cycle (l : List Byte) (s : State) : (sinkWrite l s).cycle = s.cycle := rfl
@[simp] theorem sinkWrite_trace (l : List Byte) (s : State) : (sinkWrite l s).trace = s.trace ++ [.sinkWrite l] := rfl

@[simp] theorem respond_par (a st : Byte) (s : State) : (respond a st s).par = s.par := rfl
@[simp] theorem respond_state (a st : Byte) (s : State) : (respond a st s).state = s.state := rfl
@[simp] theorem respond_start1 (a st : Byte) (s : State) : (respond a st s).start1 = s.start1 := rfl
@[simp] theorem respond_start2 (a st : Byte) (s : State) : (respond a st s).start2 = s.start2 := rfl
@[simp] theorem respond_cmd (a st : Byte) (s : State) : (respond a st s).cmd = s.cmd := rfl
@[simp] theorem respond_crcRx (a st : Byte) (s : State) : (respond a st s).crcRx = s.crcRx := rfl
@[simp] theorem respond_lastRx (a st : Byte) (s : State) : (respond a st s).lastRx = s.lastRx := rfl
@[simp] theorem respond_pinOut (a st : Byte) (s : State) : (respond a st s).pinOut = s.pinOut := rfl
@[simp] theorem respond_resp (a st : Byte) (s : State) : (respond a st s).resp = some ⟨a, st⟩ := rfl
@[simp] theorem respond_inputs (a st : Byte) (s : State) : (respond a st s).inputs = s.inputs := rfl
@[simp] theorem respond_cycle (a st : Byte) (s : State) : (respond a st s).cycle = s.cycle := rfl
@[simp] theorem respond_trace (a st : Byte) (s : State) : (respond a st s).trace = s.trace := rfl

@[simp] theorem raiseError_par (e : ErrorStatus) (s : State) : (raiseError e s).par = s.par := rfl
@[simp] theorem raiseError_state (e : ErrorStatus) (s : State) : (raiseError e s).state = s.state := rfl
@[simp] theorem raiseError_start1 (e : ErrorStatus) (s : State) : (raiseError e s).start1 = s.start1 := rfl
@[simp] theorem raiseError_start2 (e : ErrorStatus) (s : State) : (raiseError e s).start2 = s.start2 := rfl
@[simp] theorem raiseError_cmd (e : ErrorStatus) (s : State) : (raiseError e s).cmd = s.cmd := rfl
@[simp] theorem raiseError_crcRx (e : ErrorStatus) (s : State) : (raiseError e s).crcRx = s.crcRx := rfl
@[simp] theorem raiseError_lastRx (e : ErrorStatus) (s : State) : (raiseError e s).lastRx = s.lastRx := rfl
@[simp] theorem raiseError_pinOut (e : ErrorStatus) (s : State) : (raiseError e s).pinOut = s.pinOut := rfl
@[simp] theorem raiseError_resp (e : ErrorStatus) (s : State) : (raiseError e s).resp = some ⟨s.par.nakByte, errorCode s.par e⟩ := rfl
@[simp] theorem raiseError_inputs (e : ErrorStatus) (s : State) : (raiseError e s).inputs = s.inputs := rfl
@[simp] theorem raiseError_cycle (e : ErrorStatus) (s : State) : (raiseError e s).cycle = s.cycle := rfl
@[simp] theorem raiseError_trace (e : ErrorStatus) (s : State) : (raiseError e s).trace = s.trace := rfl

@[simp] theorem noteActivity_par (s : State) : (noteActivity s).par = s.par := rfl
@[simp] theorem noteActivity_state (s : State) : (noteActivity s).state = s.state := rfl
@[simp] theorem noteActivity_start1 (s : State) : (noteActivity s).start1 = s.start1 := rfl
@[simp] theorem noteActivity_start2 (s : State) : (noteActivity s).start2 = s.start2 := rfl
@[simp] theorem noteActivity_cmd (s : State) : (noteActivity s).cmd = s.cmd := rfl
@[simp] theorem noteActivity_crcRx (s : State) : (noteActivity s).crcRx = s.crcRx := rfl
@[simp] theorem noteActivity_lastRx (s : State) : (noteActivity s).lastRx = now s := rfl
@[simp] theorem noteActivity_pinOut (s : State) : (noteActivity s).pinOut = s.pinOut := rfl
@[simp] theorem noteActivity_resp (s : State) : (noteActivity s).resp = s.resp := rfl
@[simp] theorem noteActivity_inputs (s : State) : (noteActivity s).inputs = s.inputs := rfl
@[simp] theorem noteActivity_cycle (s : State) : (noteActivity s).cycle = s.cycle := rfl
@[simp] theorem noteActivity_trace (s : State) : (noteActivity s).trace = s.trace := rfl

@[simp] theorem timeoutFire_par (s : State) : (timeoutFire s).par = s.par := rfl
@[simp] theorem timeoutFire_state (s : State) : (timeoutFire s).state = .waitStart1 := rfl
@[simp] theorem timeoutFire_start1 (s : State) : (timeoutFire s).start1 = s.start1 := rfl
@[simp] theorem timeoutFire_start2 (s : State) : (timeoutFire s).start2 = s.start2 := rfl
@[simp] theorem timeoutFire_cmd (s : State) : (timeoutFire s).cmd = s.cmd := rfl
@[simp] theorem timeoutFire_crcRx (s : State) : (timeoutFire s).crcRx = s.crcRx := rfl
@[simp] theorem timeoutFire_lastRx (s : State) : (timeoutFire s).lastRx = s.lastRx := rfl
@[simp] theorem timeoutFire_pinOut (s : State) : (timeoutFire s).pinOut = s.pinOut := rfl
@[simp] theorem timeoutFire_resp (s : State) : (timeoutFire s).resp = some ⟨s.par.nakByte, s.par.stTimeoutError⟩ := rfl
@[simp] theorem timeoutFire_inputs (s : State) : (timeoutFire s).inputs = s.inputs := rfl
@[simp] theorem timeoutFire_cycle (s : State) : (timeoutFire s).cycle = s.cycle := rfl
@[simp] theorem timeoutFire_trace (s : State) : (timeoutFire s).trace = s.trace := rfl

@[simp] theorem openCycle_par (s : State) : (openCycle s).par = s.par := rfl
@[simp] theorem openCycle_state (s : State) : (openCycle s).state = s.state := rfl
@[simp] theorem openCycle_start1 (s : State) : (openCycle s).start1 = s.start1 := rfl
@[simp] theorem openCycle_start2 (s : State) : (openCycle s).start2 = s.start2 := rfl
@[simp] theorem openCycle_cmd (s : State) : (openCycle s).cmd = s.cmd := rfl
@[simp] theorem openCycle_crcRx (s : State) : (openCycle s).crcRx = s.crcRx := rfl
@[simp] theorem openCycle_lastRx (s : State) : (openCycle s).lastRx = s.lastRx := rfl
@[simp] theorem openCycle_pinOut (s : State) : (openCycle s).pinOut = s.pinOut := rfl
@[simp] theorem openCycle_resp (s : State) : (openCycle s).resp = none := rfl
@[simp] theorem openCycle_inputs (s : State) : (openCycle s).inputs = s.inputs := rfl
@[simp] theorem openCycle_cycle (s : State) : (openCycle s).cycle = s.cycle := rfl
@[simp] theorem openCycle_trace (s : State) : (openCycle s).trace = s.trace := rfl

@[simp] theorem closeCycle_par (s : State) : (closeCycle s).par = s.par := rfl
@[simp] theorem closeCycle_state (s : State) : (closeCycle s).state = s.state := rfl
@[simp] theorem closeCycle_start1 (s : State) : (closeCycle s).start1 = s.start1 := rfl
@[simp] theorem closeCycle_start2 (s : State) : (closeCycle s).start2 = s.start2 := rfl
@[simp] theorem closeCycle_cmd (s : State) : (closeCycle s).cmd = s.cmd := rfl
@[simp] theorem closeCycle_crcRx (s : State) : (closeCycle s).crcRx = s.crcRx := rfl
@[simp] theorem closeCycle_lastRx (s : State) : (closeCycle s).lastRx = s.lastRx := rfl
@[simp] theorem closeCycle_pinOut (s : State) : (closeCycle s).pinOut = s.pinOut := rfl
@[simp] theorem closeCycle_resp (s : State) : (closeCycle s).resp = none := rfl
@[simp] theorem closeCycle_inputs (s : State) : (closeCycle s).inputs = s.inputs.tail := rfl
@[simp] theorem closeCycle_cycle (s : State) : (closeCycle s).cycle = s.cycle + 1 := rfl
@[simp] theorem closeCycle_trace (s : State) : (closeCycle s).trace = s.trace := rfl

/-! The cycle's draws do not change while the cycle runs. -/

@[simp] theorem rxByte_record (e : Event) (s : State) : rxByte (record e s) = rxByte s := rfl
@[simp] theorem now_record (e : Event) (s : State) : now (record e s) = now s := rfl
@[simp] theorem pinLevel_record (e : Event) (s : State) : pinLevel (record e s) = pinLevel s := rfl
@[simp] theorem rxByte_pinRead (s : State) : rxByte (pinRead s) = rxByte s := rfl
@[simp] theorem now_pinRead (s : State) : now (pinRead s) = now s := rfl
@[simp] theorem pinLevel_pinRead (s : State) : pinLevel (pinRead s) = pinLevel s := rfl
@[simp] theorem rxByte_pinWrite (v : Level) (s : State) : rxByte (pinWrite v s) = rxByte s := rfl
@[simp] theorem now_pinWrite (v : Level) (s : State) : now (pinWrite v s) = now s := rfl
@[simp] theorem pinLevel_pinWrite (v : Level) (s : State) : pinLevel (pinWrite v s) = pinLevel s := rfl
@[simp] theorem rxByte_sinkWrite (l : List Byte) (s : State) : rxByte (sinkWrite l s) = rxByte s := rfl
@[simp] theorem now_sinkWrite (l : List Byte) (s : State) : now (sinkWrite l s) = now s := rfl
@[simp] theorem pinLevel_sinkWrite (l : List Byte) (s : State) : pinLevel (sinkWrite l s) = pinLevel s := rfl
@[simp] theorem rxByte_respond (a st : Byte) (s : State) : rxByte (respond a st s) = rxByte s := rfl
@[simp] theorem now_respond (a st : Byte) (s : State) : now (respond a st s) = now s := rfl
@[simp] theorem pinLevel_respond (a st : Byte) (s : State) : pinLevel (respond a st s) = pinLevel s := rfl
@[simp] theorem rxByte_raiseError (e : ErrorStatus) (s : State) : rxByte (raiseError e s) = rxByte s := rfl
@[simp] theorem now_raiseError (e : ErrorStatus) (s : State) : now (raiseError e s) = now s := rfl
@[simp] theorem pinLevel_raiseError (e : ErrorStatus) (s : State) : pinLevel (raiseError e s) = pinLevel s := rfl
@[simp] theorem rxByte_noteActivity (s : State) : rxByte (noteActivity s) = rxByte s := rfl
@[simp] theorem now_noteActivity (s : State) : now (noteActivity s) = now s := rfl
@[simp] theorem pinLevel_noteActivity (s : State) : pinLevel (noteActivity s) = pinLevel s := rfl
@[simp] theorem rxByte_timeoutFire (s : State) : rxByte (timeoutFire s) = rxByte s := rfl
@[simp] theorem now_timeoutFire (s : State) : now (timeoutFire s) = now s := rfl
@[simp] theorem pinLevel_timeoutFire (s : State) : pinLevel (timeoutFire s) = pinLevel s := rfl
@[simp] theorem rxByte_openCycle (s : State) : rxByte (openCycle s) = rxByte s := rfl
@[simp] theorem now_openCycle (s : State) : now (openCycle s) = now s := rfl
@[simp] theorem pinLevel_openCycle (s : State) : pinLevel (openCycle s) = pinLevel s := rfl

end Sys2Proof.Machine
end

