-- ==== Sys2Proof/Laws/Step.lean ====
section
/-! SUPPORT. What the parser, a command, a dispatch and a poll cycle can do, each said once. -/

namespace Sys2Proof.Machine

/-! ## The draws -/

theorem currentInput_cons {s : State} {i : CycleInput} {l : List CycleInput} (h : s.inputs = i :: l) :
    currentInput s = i := by simp [currentInput, h]

theorem rxByte_cons {s : State} {i : CycleInput} {l : List CycleInput} (h : s.inputs = i :: l) : rxByte s = i.rx := by
  simp [rxByte, currentInput_cons h]

theorem now_cons {s : State} {i : CycleInput} {l : List CycleInput} (h : s.inputs = i :: l) :
    now s = i.now % 2 ^ s.par.clkW := by simp [now, currentInput_cons h]

theorem pinLevel_cons {s : State} {i : CycleInput} {l : List CycleInput} (h : s.inputs = i :: l) :
    pinLevel s = i.pinRd := by simp [pinLevel, currentInput_cons h]

theorem currentInput_congr {s t : State} (hi : s.inputs = t.inputs) (hc : s.cycle = t.cycle) :
    currentInput s = currentInput t := by simp [currentInput, hi, hc]

/-! ## The parser -/

/-- Everything `ParserStep` can do. -/
theorem parserStep_cases (b : Byte) (s : State) :
    (s.state = .waitStart1 ∧ b = s.par.reqM1 ∧ parserStep b s = ({ s with start1 := b, state := .waitStart2 }, false)) ∨
    (s.state = .waitStart1 ∧ b ≠ s.par.reqM1 ∧ parserStep b s = (s, false)) ∨
    (s.state = .waitStart2 ∧ b = s.par.reqM2 ∧ parserStep b s = ({ s with start2 := b, state := .waitCmd }, false)) ∨
    (s.state = .waitStart2 ∧ b ≠ s.par.reqM2 ∧ parserStep b s = ({ s with state := .waitStart1 }, false)) ∨
    (s.state = .waitCmd ∧ parserStep b s = ({ s with cmd := b, state := .waitCrcHi }, false)) ∨
    (s.state = .waitCrcHi ∧ parserStep b s = ({ s with crcRx := setHiByte s.crcRx b, state := .waitCrcLo }, false)) ∨
    (s.state = .waitCrcLo ∧ parserStep b s = ({ s with crcRx := setLoByte s.crcRx b, state := .waitStart1 }, true)) := by
  cases h : s.state <;> simp only [parserStep, h]
  · by_cases hb : b = s.par.reqM1 <;> simp [hb]
  · by_cases hb : b = s.par.reqM2 <;> simp [hb]
  all_goals simp

/-- What the parser never touches. -/
theorem parserStep_frame (b : Byte) (s : State) :
    (parserStep b s).1 = { s with
      state := (parserStep b s).1.state
      start1 := (parserStep b s).1.start1
      start2 := (parserStep b s).1.start2
      cmd := (parserStep b s).1.cmd
      crcRx := (parserStep b s).1.crcRx } := by
  obtain ⟨_, _, h⟩ | ⟨_, _, h⟩ | ⟨_, _, h⟩ | ⟨_, _, h⟩ | ⟨_, h⟩ | ⟨_, h⟩ | ⟨_, h⟩ := parserStep_cases b s <;> rw [h]

/-! ## Commands and dispatch -/

/-- The events a command or a rejected frame leaves, the output register and the response that go with them. -/
inductive CommandOutcome (s : State) : Option Level → List Event → Response → Prop where
  | crcMismatch : s.crcRx ≠ crc16 s.par [s.start1, s.start2, s.cmd] →
      CommandOutcome s s.pinOut [] ⟨s.par.nakByte, s.par.stInvalidCrc⟩
  | unknown : CommandOutcome s s.pinOut [] ⟨s.par.nakByte, s.par.stInvalidCommand⟩
  | reportEnabled : pinLevel s = s.par.enableLevel →
      CommandOutcome s s.pinOut [.pinRead (pinLevel s)] ⟨s.par.ackByte, s.par.stEnabled⟩
  | reportDisabled : pinLevel s ≠ s.par.enableLevel →
      CommandOutcome s s.pinOut [.pinRead (pinLevel s)] ⟨s.par.ackByte, s.par.stDisabled⟩
  | confirmed (v : Level) (st : Byte) : pinLevel s = v →
      (v = s.par.disableLevel ∧ st = s.par.stDisabled ∨ v = s.par.enableLevel ∧ st = s.par.stEnabled) →
      CommandOutcome s (some v) [.pinWrite v, .pinRead (pinLevel s)] ⟨s.par.ackByte, st⟩
  | unconfirmed (v : Level) : pinLevel s ≠ v → v = s.par.disableLevel ∨ v = s.par.enableLevel →
      CommandOutcome s (some v) [.pinWrite v, .pinRead (pinLevel s)] ⟨s.par.nakByte, s.par.stPinWriteError⟩

/-- Every response is one of the six of 30_encoding.md R68. -/
theorem CommandOutcome.emitted {s : State} {po : Option Level} {evs : List Event} {r : Response}
    (h : CommandOutcome s po evs r) : r ∈ emittedPairs s.par := by
  cases h with
  | confirmed v st _ h => obtain ⟨_, rfl⟩ | ⟨_, rfl⟩ := h <;> simp [emittedPairs]
  | _ => simp [emittedPairs]

theorem writeThenVerify_eq (v : Level) (st : Byte) (s : State) :
    writeThenVerify v st s = { s with
      pinOut := some v
      trace := s.trace ++ [.pinWrite v, .pinRead (pinLevel s)]
      resp := some (if pinLevel s = v then ⟨s.par.ackByte, st⟩ else ⟨s.par.nakByte, s.par.stPinWriteError⟩) } := by
  have e : pinRead (pinWrite v s) =
      { s with pinOut := some v, trace := s.trace ++ [.pinWrite v, .pinRead (pinLevel s)] } := by
    simp only [pinRead, pinLevel_pinWrite]
    simp [record, pinWrite]
  simp only [writeThenVerify, pinLevel_pinWrite, e]
  split <;> simp_all [respond, raiseError, errorCode]

/-- Every command answers a next state that differs from the state before in `pinOut`, `trace` and `resp` alone. -/
theorem exec_outcome (i : Instr) (s : State) : ∃ po evs r, CommandOutcome s po evs r ∧
    exec i s = .next { s with pinOut := po, trace := s.trace ++ evs, resp := some r } := by
  have verify (v : Level) (st : Byte)
      (hv : v = s.par.disableLevel ∧ st = s.par.stDisabled ∨ v = s.par.enableLevel ∧ st = s.par.stEnabled) :
      ∃ po evs r, CommandOutcome s po evs r ∧
        Host.Outcome.next (φ := Fault) (ρ := Refusal) (writeThenVerify v st s) =
          .next { s with pinOut := po, trace := s.trace ++ evs, resp := some r } := by
    by_cases h : pinLevel s = v
    · exact ⟨_, _, _, .confirmed v st h hv, by rw [writeThenVerify_eq, if_pos h]⟩
    · exact ⟨_, _, _, .unconfirmed v h (hv.imp And.left And.left), by rw [writeThenVerify_eq, if_neg h]⟩
  cases i with
  | disable => exact verify _ _ (.inl ⟨rfl, rfl⟩)
  | enable => exact verify _ _ (.inr ⟨rfl, rfl⟩)
  | getConfig =>
    by_cases h : pinLevel s = s.par.enableLevel
    · exact ⟨_, _, _, .reportEnabled h, by simp [exec, execGetConfig, respond, pinRead, record, h]⟩
    · exact ⟨_, _, _, .reportDisabled h, by simp [exec, execGetConfig, respond, pinRead, record, h]⟩
  | invalid c => exact ⟨_, _, _, .unknown, by simp [exec, execInvalid, raiseError, respond, errorCode]⟩

/-- The same of a dispatch, the CRC gate included. -/
theorem dispatchFrame_outcome (s : State) : ∃ po evs r, CommandOutcome s po evs r ∧
    dispatchFrame s = .next { s with pinOut := po, trace := s.trace ++ evs, resp := some r } := by
  by_cases h : s.crcRx = crc16 s.par [s.start1, s.start2, s.cmd]
  · simpa [dispatchFrame, crcOk, h] using exec_outcome (decodeCmd s.par s.cmd) s
  · exact ⟨_, _, _, .crcMismatch h, by simp [dispatchFrame, crcOk, h, raiseError, respond, errorCode]⟩

/-! ## The poll cycle -/

theorem elapsed_self (w t : Nat) : elapsed w t t = 0 := by simp [elapsed]

/-- A cycle that noted a byte cannot time out (43_timeout.md R173). -/
theorem timeoutCheck_of_lastRx_eq_now {s : State} (h : s.lastRx = now s) : timeoutCheck s = false := by
  simp [timeoutCheck, h, elapsed_self]

theorem par_ok_of_step {s t : State} (h : step s = .next t) : s.par.ok = true := by
  by_contra hn
  simp [step, pollCycle, hn] at h

/-- A cycle without a byte. -/
theorem step_of_noByte {s : State} (hok : s.par.ok = true) (hrx : rxByte s = none) :
    step s = .next (if timeoutCheck s then
        closeCycle (sinkWrite (encodeResponse s.par ⟨s.par.nakByte, s.par.stTimeoutError⟩) { s with state := .waitStart1 })
      else closeCycle s) := by
  have hc : timeoutCheck (openCycle s) = timeoutCheck s := rfl
  simp only [step, pollCycle, hok, if_true, intake, rxByte_openCycle, hrx, finishCycle, superviseTimeout, hc]
  split <;> rfl

/-- The state the parser leaves, at the head of phase (a). -/
theorem intakeState_lastRx (b : Byte) (s : State) :
    (parserStep b (noteActivity (openCycle s))).1.lastRx = now (parserStep b (noteActivity (openCycle s))).1 := by
  rw [parserStep_frame]; rfl

/-- A cycle with a byte that completes no frame. -/
theorem step_of_byte {s : State} {b : Byte} (hok : s.par.ok = true) (hrx : rxByte s = some b)
    (hst : s.state ≠ .waitCrcLo) :
    step s = .next (closeCycle (parserStep b (noteActivity s)).1) := by
  have hd : (parserStep b (noteActivity (openCycle s))).2 = false := by
    obtain ⟨_, _, h⟩ | ⟨_, _, h⟩ | ⟨_, _, h⟩ | ⟨_, _, h⟩ | ⟨_, h⟩ | ⟨_, h⟩ | ⟨h, _⟩ :=
      parserStep_cases b (noteActivity (openCycle s))
    any_goals rw [h]
    exact absurd h hst
  have ht : timeoutCheck (parserStep b (noteActivity (openCycle s))).1 = false :=
    timeoutCheck_of_lastRx_eq_now (intakeState_lastRx b s)
  have hr : (parserStep b (noteActivity (openCycle s))).1.resp = none := by rw [parserStep_frame]; rfl
  have hcl : closeCycle (parserStep b (noteActivity (openCycle s))).1 =
      closeCycle (parserStep b (noteActivity s)).1 := by
    cases h : s.state <;>
      simp only [parserStep, noteActivity, openCycle, closeCycle, h, now, currentInput] <;> split <;> rfl
  simp [step, pollCycle, hok, intake, hrx, intakeByte, hd, finishCycle, superviseTimeout, ht, sendResponse, hr, hcl]

/-! A cycle whose byte is accepted in each of the first four parser states, as a record. -/

theorem step_firstMarker {s : State} (hok : s.par.ok = true) (hst : s.state = .waitStart1)
    (hrx : rxByte s = some s.par.reqM1) :
    step s = .next { s with
      state := .waitStart2, start1 := s.par.reqM1, lastRx := now s, resp := none
      inputs := s.inputs.tail, cycle := s.cycle + 1 } := by
  rw [step_of_byte hok hrx (by simp [hst])]
  simp [parserStep, noteActivity, hst, closeCycle]

theorem step_secondMarker {s : State} (hok : s.par.ok = true) (hst : s.state = .waitStart2)
    (hrx : rxByte s = some s.par.reqM2) :
    step s = .next { s with
      state := .waitCmd, start2 := s.par.reqM2, lastRx := now s, resp := none
      inputs := s.inputs.tail, cycle := s.cycle + 1 } := by
  rw [step_of_byte hok hrx (by simp [hst])]
  simp [parserStep, noteActivity, hst, closeCycle]

theorem step_command {s : State} {b : Byte} (hok : s.par.ok = true) (hst : s.state = .waitCmd)
    (hrx : rxByte s = some b) :
    step s = .next { s with
      state := .waitCrcHi, cmd := b, lastRx := now s, resp := none
      inputs := s.inputs.tail, cycle := s.cycle + 1 } := by
  rw [step_of_byte hok hrx (by simp [hst])]
  simp [parserStep, noteActivity, hst, closeCycle]

theorem step_checksumHigh {s : State} {b : Byte} (hok : s.par.ok = true) (hst : s.state = .waitCrcHi)
    (hrx : rxByte s = some b) :
    step s = .next { s with
      state := .waitCrcLo, crcRx := setHiByte s.crcRx b, lastRx := now s, resp := none
      inputs := s.inputs.tail, cycle := s.cycle + 1 } := by
  rw [step_of_byte hok hrx (by simp [hst])]
  simp [parserStep, noteActivity, hst, closeCycle]

/-- The state in which a completed frame is dispatched. -/
abbrev frameTaken (b : Byte) (s : State) : State :=
  { s with lastRx := now s, crcRx := setLoByte s.crcRx b, state := .waitStart1, resp := none }

/-- A cycle whose byte completes a frame: the dispatch, then the send; the supervisor adds nothing. -/
theorem step_of_completion {s : State} {b : Byte} (hok : s.par.ok = true) (hrx : rxByte s = some b)
    (hst : s.state = .waitCrcLo) :
    step s = match dispatchFrame (frameTaken b s) with
      | .next t => .next (closeCycle (sendResponse t))
      | .fault f => .fault f
      | .refused r => .refused r := by
  have hp : parserStep b (noteActivity (openCycle s)) = (frameTaken b s, true) := by
    simp [parserStep, hst, noteActivity, openCycle, now, currentInput]
  simp only [step, pollCycle, hok, if_true, intake, rxByte_openCycle, hrx, intakeByte, hp]
  obtain ⟨po, evs, r, -, h⟩ := dispatchFrame_outcome (frameTaken b s)
  rw [h]
  have ht : timeoutCheck { frameTaken b s with pinOut := po, trace := s.trace ++ evs, resp := some r } = false := by
    simp [timeoutCheck]
  simp [finishCycle, superviseTimeout, ht]

/-- Everything a poll cycle can do. -/
theorem step_cases {s t : State} (h : step s = .next t) :
    s.par.ok = true ∧
    ((rxByte s = none ∧ timeoutCheck s = false ∧ t = closeCycle s) ∨
     (rxByte s = none ∧ timeoutCheck s = true ∧ t = closeCycle (sinkWrite
        (encodeResponse s.par ⟨s.par.nakByte, s.par.stTimeoutError⟩) { s with state := .waitStart1 })) ∨
     (∃ b, rxByte s = some b ∧ s.state ≠ .waitCrcLo ∧ t = closeCycle (parserStep b (noteActivity s)).1) ∨
     (∃ b po evs r, rxByte s = some b ∧ s.state = .waitCrcLo ∧ CommandOutcome (frameTaken b s) po evs r ∧
        t = closeCycle { frameTaken b s with
          pinOut := po, trace := s.trace ++ evs ++ [.sinkWrite (encodeResponse s.par r)] })) := by
  have hok := par_ok_of_step h
  refine ⟨hok, ?_⟩
  cases hrx : rxByte s with
  | none =>
    rw [step_of_noByte hok hrx] at h
    cases hc : timeoutCheck s <;> simp_all
  | some b =>
    by_cases hst : s.state = .waitCrcLo
    · rw [step_of_completion hok hrx hst] at h
      obtain ⟨po, evs, r, ho, hd⟩ := dispatchFrame_outcome (frameTaken b s)
      rw [hd] at h
      refine .inr (.inr (.inr ⟨b, po, evs, r, rfl, hst, ho, ?_⟩))
      simp only [Host.Outcome.next.injEq] at h
      rw [← h]
      rfl
    · rw [step_of_byte hok hrx hst] at h
      simp only [Host.Outcome.next.injEq] at h
      exact .inr (.inr (.inl ⟨b, rfl, hst, h.symm⟩))

/-! ## Runs -/

theorem runCycles_eq_core_run (k : Nat) (s : State) : runCycles k s = Host.Core.run core k s := by
  induction k generalizing s with
  | zero => rfl
  | succ k ih =>
    have hs : core.step s = step s := rfl
    simp only [runCycles, Host.Core.run, hs]
    cases step s with
    | next t => exact ih t
    | fault f => rfl
    | refused r => rfl

theorem runCycles_succ {k : Nat} {s t : State} (h : step s = .next t) : runCycles (k + 1) s = runCycles k t := by
  simp [runCycles, h]

theorem runCycles_one (s : State) : runCycles 1 s = step s := by
  simp only [runCycles]
  cases step s <;> rfl

/-! ## The trace -/

theorem eventsSince_append {s t : State} {evs : List Event} (h : t.trace = s.trace ++ evs) :
    eventsSince s t = evs := by simp [eventsSince, h]

end Sys2Proof.Machine
end

