-- ==== Sys2Proof/Tests/Slice0.lean ====
section
/-! SUPPORT. Tests. Expected values are the spec's: 95_test_vectors.md, 30_encoding.md R73, 44_encoder.md R194, and the
rule named beside a test. After them, for each statement with hypotheses, a witness that meets them. -/

set_option Elab.async false

namespace Sys2Proof.Tests

open Sys2Proof.Machine

/-! ## Small states -/

/-- Reset, with one cycle's draws listed. -/
def withInput (b : Option Byte) (t : Nat) (v : Level) : State := { State.reset with inputs := [⟨b, t, v⟩] }

/-- In parser state `st` with the markers taken, the last byte at 1000 ms, one cycle's draws listed. -/
def inFrame (st : ParserState) (b : Option Byte) (t : Nat) : State :=
  { withInput b t .low with state := st, start1 := 0x57, start2 := 0x43, lastRx := 1000 }

/-- Four bytes of the frame `57 43 c h` taken; the next cycle brings `l` and a pin that reads `v`. -/
def lastByte (c h l : Byte) (v : Level) : State :=
  { withInput (some l) 1001 v with
    state := .waitCrcLo, start1 := 0x57, start2 := 0x43, cmd := c, crcRx := joinBytes h 0, lastRx := 1000 }

/-- The frame `57 43 c` with checksum `crc`, just completed; the pin reads `v`. -/
def completed (c : Byte) (crc : Word16) (v : Level) : State :=
  { withInput none 1001 v with start1 := 0x57, start2 := 0x43, cmd := c, crcRx := crc, lastRx := 1001 }

/-- Idle, with the bytes `l` coming one per cycle at the times and pin levels of `env`, then the cycles of `more`. -/
def coming (l : List Byte) (env : List (Nat × Level)) (more : List CycleInput) : State :=
  { State.reset with inputs := deliver l env ++ more }

/-- The state after one step, if there is one. -/
def after (s : State) : Option State :=
  match step s with
  | .next t => some t
  | _ => none

/-- Whether an outcome is a next state. -/
def isNext : Result → Bool
  | .next _ => true
  | _ => false

/-! ## Well-formedness and parameters -/

theorem test_illformed_invalid_00 : (Instr.invalid 0x00).wellFormed thisHardware = false := by decide
theorem test_illformed_invalid_01 : (Instr.invalid 0x01).wellFormed thisHardware = false := by decide
theorem test_illformed_invalid_02 : (Instr.invalid 0x02).wellFormed thisHardware = false := by decide
theorem test_wellformed_invalid_03 : (Instr.invalid 0x03).wellFormed thisHardware = true := by decide

theorem test_r8_refuses_each_breach :
    { thisHardware with cmdEnable := 0x00 }.ok = false ∧ { thisHardware with nakByte := 0x06 }.ok = false ∧
    { thisHardware with stTimeoutError := 0x01 }.ok = false ∧ { thisHardware with rspM2 := 0x43 }.ok = false ∧
    { thisHardware with disableLevel := .high }.ok = false ∧ { thisHardware with n := 0 }.ok = false ∧
    { thisHardware with timeoutMs := 2 ^ 32 }.ok = false := by decide

/-! ## Decoding: the words of 30_encoding.md R73, each constructor and each rejection -/

theorem test_decode_disable : decode thisHardware [0x57, 0x43, 0x00, 0x4F, 0x5D] = .ok (.disable, []) := by decide +kernel
theorem test_decode_enable : decode thisHardware [0x57, 0x43, 0x01, 0x5F, 0x7C] = .ok (.enable, []) := by decide +kernel
theorem test_decode_getConfig : decode thisHardware [0x57, 0x43, 0x02, 0x6F, 0x1F] = .ok (.getConfig, []) := by decide +kernel
theorem test_decode_invalid : decode thisHardware [0x57, 0x43, 0xFF, 0x51, 0xAD] = .ok (.invalid 0xFF, []) := by decide +kernel
/-- A marker value is an ordinary command byte (95_test_vectors.md 2.3). -/
theorem test_decode_marker_as_command :
    decode thisHardware [0x57, 0x43, 0x57, 0x65, 0x4F, 0xAA] = .ok (.invalid 0x57, [0xAA]) := by decide +kernel
theorem test_decode_truncated : decode thisHardware [0x57, 0x43, 0x00, 0x4F] = .error .truncated := by decide +kernel
theorem test_decode_badMarker1 : decode thisHardware [0x00, 0x43, 0x00, 0x4F, 0x5D] = .error .badMarker1 := by decide +kernel
theorem test_decode_badMarker2 : decode thisHardware [0x57, 0x52, 0x00, 0x4F, 0x5D] = .error .badMarker2 := by decide +kernel
/-- Checksum bytes swapped (W4). -/
theorem test_decode_badCrc : decode thisHardware [0x57, 0x43, 0x01, 0x7C, 0x5F] = .error .badCrc := by decide +kernel
theorem test_encode_enable : encode thisHardware .enable = [0x57, 0x43, 0x01, 0x5F, 0x7C] := by decide +kernel
theorem test_decodeTableWord :
    [decodeTableWord 8 0, decodeTableWord 8 1, decodeTableWord 8 2, decodeTableWord 8 0xFF] =
      [some .disable, some .enable, some .getConfig, some (.invalid 0xFF)] := by decide +kernel

/-! ## CRC (95_test_vectors.md 2.1) and the response encoder (2.5, R194) -/

theorem test_crc_vectors :
    [[], [0x00], [0x80], [0x57, 0x52], [0x57, 0x43, 0x43], [0x57, 0x52, 0x06, 0x02, 0x00]].map (crc16 thisHardware) =
      [0xFFFF, 0xE1F0, 0x7078, 0xF090, 0x37FA, 0x2F7B] := by decide +kernel
theorem test_encode_response : encodeResponse thisHardware ⟨0x06, 0x02⟩ = [0x57, 0x52, 0x06, 0x02, 0x1A, 0x9C] := by decide +kernel
theorem test_encode_response_loFirst : encodeResponse { thisHardware with rspCrcOrder := .loFirst } ⟨0x15, 0x08⟩ =
    [0x57, 0x52, 0x15, 0x08, 0xF6, 0xED] := by decide +kernel
theorem test_encode_response_n2 : encodeResponse { thisHardware with n := 2 } ⟨0x06, 0x02⟩ =
    [0x57, 0x52, 0x06, 0x02, 0x00, 0x2F, 0x7B] := by decide +kernel

/-! ## Parser (95_test_vectors.md 2.2) -/

theorem test_parser_first_marker :
    (parserStep 0x57 State.reset).1.state = .waitStart2 ∧ (parserStep 0x57 State.reset).1.start1 = 0x57 ∧
    parserStep 0x43 State.reset = (State.reset, false) := by decide
/-- A repeated first marker aborts and is not looked at again (D16). -/
theorem test_parser_second_marker :
    (parserStep 0x43 (inFrame .waitStart2 none 0)).1.state = .waitCmd ∧
    (parserStep 0x57 (inFrame .waitStart2 none 0)).1.state = .waitStart1 := by decide
theorem test_parser_command :
    (parserStep 0x57 (inFrame .waitCmd none 0)).1.cmd = 0x57 ∧
    (parserStep 0x57 (inFrame .waitCmd none 0)).1.state = .waitCrcHi := by decide
theorem test_parser_checksum :
    (parserStep 0x5F { inFrame .waitCrcHi none 0 with crcRx := 0x1234 }).1.crcRx = 0x5F34 ∧
    (parserStep 0x7C { inFrame .waitCrcLo none 0 with crcRx := 0x5F34 }).1.crcRx = 0x5F7C ∧
    (parserStep 0x7C { inFrame .waitCrcLo none 0 with crcRx := 0x5F34 }).2 = true := by decide

/-! ## Commands, one step each (95_test_vectors.md 2.3) -/

theorem test_disable_confirmed : (after (lastByte 0x00 0x4F 0x5D .low)).map (fun t => (t.pinOut, t.trace)) =
    some (some .low, [.pinWrite .low, .pinRead .low, .sinkWrite [0x57, 0x52, 0x06, 0x01, 0x2A, 0xFF]]) := by
  decide +kernel
theorem test_disable_unconfirmed : (after (lastByte 0x00 0x4F 0x5D .high)).map (fun t => (t.pinOut, t.trace)) =
    some (some .low, [.pinWrite .low, .pinRead .high, .sinkWrite [0x57, 0x52, 0x15, 0x04, 0x2C, 0x7A]]) := by
  decide +kernel
theorem test_enable_confirmed : (after (lastByte 0x01 0x5F 0x7C .high)).map (fun t => (t.pinOut, t.trace)) =
    some (some .high, [.pinWrite .high, .pinRead .high, .sinkWrite [0x57, 0x52, 0x06, 0x02, 0x1A, 0x9C]]) := by
  decide +kernel
theorem test_enable_unconfirmed : (after (lastByte 0x01 0x5F 0x7C .low)).map (fun t => (t.pinOut, t.trace)) =
    some (some .high, [.pinWrite .high, .pinRead .low, .sinkWrite [0x57, 0x52, 0x15, 0x04, 0x2C, 0x7A]]) := by
  decide +kernel
theorem test_getConfig_enabled : (after (lastByte 0x02 0x6F 0x1F .high)).map (fun t => (t.pinOut, t.trace)) =
    some (none, [.pinRead .high, .sinkWrite [0x57, 0x52, 0x06, 0x02, 0x1A, 0x9C]]) := by decide +kernel
theorem test_getConfig_disabled : (after (lastByte 0x02 0x6F 0x1F .low)).map (fun t => (t.pinOut, t.trace)) =
    some (none, [.pinRead .low, .sinkWrite [0x57, 0x52, 0x06, 0x01, 0x2A, 0xFF]]) := by decide +kernel
theorem test_invalid : (after (lastByte 0xFF 0x51 0xAD .high)).map (fun t => (t.pinOut, t.trace)) =
    some (none, [.sinkWrite [0x57, 0x52, 0x15, 0x08, 0xED, 0xF6]]) := by decide +kernel
/-- Bad checksum on an unknown command: InvalidCrc, not InvalidCommand (C3). -/
theorem test_bad_crc_before_unknown_command : (after (lastByte 0x03 0x00 0x00 .high)).map (fun t => (t.pinOut, t.trace)) =
    some (none, [.sinkWrite [0x57, 0x52, 0x15, 0x10, 0x7E, 0xCF]]) := by decide +kernel

/-! ## Timeout (95_test_vectors.md 2.4) -/

theorem test_timeout_threshold : timeoutCheck (inFrame .waitCmd none 1030) = false ∧
    timeoutCheck (inFrame .waitCmd none 1031) = true ∧ timeoutCheck (inFrame .waitStart1 none 999999) = false := by decide
theorem test_timeout_across_wrap :
    timeoutCheck { inFrame .waitStart2 none 0x0E with lastRx := 0xFFFFFFF0 } = false ∧
    timeoutCheck { inFrame .waitStart2 none 0x0F with lastRx := 0xFFFFFFF0 } = true := by decide
theorem test_timeout_step : (after (inFrame .waitCrcLo none 1045)).map (fun t => (t.state, t.lastRx, t.trace)) =
    some (.waitStart1, 1000, [.sinkWrite [0x57, 0x52, 0x15, 0x20, 0x48, 0x9C]]) := by decide +kernel
theorem test_byte_cycle_does_not_time_out :
    (after (inFrame .waitCmd (some 0x00) 5000)).map (fun t => (t.state, t.lastRx, t.trace)) =
    some (.waitCrcHi, 5000, []) := by decide +kernel

/-! ## Placing an instruction; the transition view -/

theorem test_withFetchWord_runs : [0x00, 0x01, 0x02, 0x03].all (fun w => isNext (step (State.reset.withFetchWord 8 w))) :=
  by decide +kernel
theorem test_transition_outputs : (transition (lastByte 0x01 0x5F 0 .low) ⟨some 0x7C, 1001, .high⟩).map (·.2) =
    some ⟨some [0x57, 0x52, 0x06, 0x02, 0x1A, 0x9C], some .high⟩ := by decide +kernel

/-! ## Witnesses: concrete values that meet the hypotheses of the statements -/

theorem witness_DecodeOfEncodedFrameIsInstruction : thisHardware.ok = true ∧
    (Instr.invalid 0x03).wellFormed thisHardware = true ∧ (Instr.invalid 0xFF).wellFormed thisHardware = true := by decide

theorem witness_DecodedBytesAreTheEncodedFrame :
    decode thisHardware [0x57, 0x43, 0x03, 0x7F, 0x3E, 0x57] = .ok (.invalid 0x03, [0x57]) := by decide +kernel

theorem witness_MalformedFramesRejectedByName :
    ([0x57, 0x43, 0x00, 0x4F] : List Byte).length < 5 ∧ (0x56 : Byte) ≠ thisHardware.reqM1 ∧
    (0x57 : Byte) = thisHardware.reqM1 ∧ (0x42 : Byte) ≠ thisHardware.reqM2 ∧ (0x43 : Byte) = thisHardware.reqM2 ∧
    joinBytes 0x5F 0x7D ≠ crc16 thisHardware [0x57, 0x43, 0x01] := by decide +kernel

theorem witness_CommandMapIsExactComparison : thisHardware.ok = true ∧ decodeCmd thisHardware 0x00 = .disable ∧
    decodeCmd thisHardware 0x01 = .enable ∧ decodeCmd thisHardware 0x02 = .getConfig ∧
    decodeCmd thisHardware 0x03 = .invalid 0x03 := by decide

theorem witness_CrcDetectsAnyOneByteChange :
    thisHardware.crcPoly.getLsbD 0 = true ∧ (0x00 : Byte) ≠ 0x01 := by decide

theorem witness_CrcOfAnotherCommandIsInvalidCrc : ∃ s : State, s.par.crcPoly.getLsbD 0 = true ∧
    s.start1 = s.par.reqM1 ∧ s.start2 = s.par.reqM2 ∧ s.cmd ≠ 0x00 ∧ s.crcRx = requestCrc s.par 0x00 :=
  ⟨completed 0x01 0x4F5D .low, by decide +kernel⟩

theorem witness_ResponseFrameLayout : 1 ≤ thisHardware.n ∧ thisHardware.rspCrcOrder = .hiFirst ∧
    ({ thisHardware with n := 2, rspCrcOrder := .loFirst } : Params).rspCrcOrder = .loFirst ∧
    (4 : Nat) < 3 + ({ thisHardware with n := 2, rspCrcOrder := .loFirst } : Params).n := by decide

theorem witness_ResponseCrcRoundTrip : 1 ≤ thisHardware.n ∧
    responseCrcMatches thisHardware .hiFirst (encodeResponse thisHardware ⟨0x06, 0x02⟩) = true ∧
    responseCrcMatches thisHardware .loFirst (encodeResponse thisHardware ⟨0x06, 0x02⟩) = false := by decide +kernel

theorem witness_ResponsePairReadableFromFrame :
    encodeResponse thisHardware ⟨0x06, 0x01⟩ = encodeResponse thisHardware ⟨0x06, 0x01⟩ ∧
    encodeResponse thisHardware ⟨0x06, 0x01⟩ ≠ encodeResponse thisHardware ⟨0x06, 0x02⟩ := by decide +kernel

theorem witness_FirstMarkerArm : State.reset.state = .waitStart1 ∧ (0x57 : Byte) = State.reset.par.reqM1 ∧
    (0x43 : Byte) ≠ State.reset.par.reqM1 := by decide

theorem witness_SecondMarkerArm : (inFrame .waitStart2 none 0).state = .waitStart2 ∧
    (0x43 : Byte) = (inFrame .waitStart2 none 0).par.reqM2 ∧
    (0x57 : Byte) ≠ (inFrame .waitStart2 none 0).par.reqM2 := by decide

theorem witness_CommandByteArm : (inFrame .waitCmd none 0).state = .waitCmd := by decide
theorem witness_ChecksumHighArm : (inFrame .waitCrcHi none 0).state = .waitCrcHi := by decide
theorem witness_ChecksumLowArm : (inFrame .waitCrcLo none 0).state = .waitCrcLo := by decide

theorem witness_CommandsLeaveTheRestUnchanged :
    [Instr.disable, .enable, .getConfig, .invalid 0x03].all (fun i => isNext (exec i State.reset)) ∧
    Instr.getConfig ≠ .disable ∧ Instr.getConfig ≠ .enable := by decide +kernel

theorem witness_CrcGateBeforeDecode :
    (completed 0x01 0x7C5F .low).crcRx ≠ crc16 thisHardware [0x57, 0x43, 0x01] ∧
    (completed 0x01 0x5F7C .low).crcRx = crc16 thisHardware [0x57, 0x43, 0x01] := by decide +kernel

/-- The three errors and a success, each reached. -/
theorem witness_ErrorPriorityInOneFrame : thisHardware.ok = true ∧
    [completed 0x03 0x0000 .low, completed 0x03 0x7F3E .low, completed 0x00 0x4F5D .high, completed 0x01 0x5F7C .low,
      completed 0x02 0x6F1F .low].map (fun s => match dispatchFrame s with | .next t => t.resp | _ => none) =
    [some ⟨0x15, 0x10⟩, some ⟨0x15, 0x08⟩, some ⟨0x15, 0x04⟩, some ⟨0x15, 0x04⟩, some ⟨0x06, 0x01⟩] := by decide +kernel

theorem witness_PinAccessesPerDispatch : thisHardware.ok = true ∧
    [completed 0x01 0x0000 .low, completed 0x00 0x4F5D .low, completed 0x01 0x5F7C .low, completed 0x02 0x6F1F .low,
      completed 0x03 0x7F3E .low].all (fun s => isNext (dispatchFrame s)) := by decide +kernel

/-- Two completed frames alike but for the clock and the output register. -/
theorem witness_DispatchDependsOnlyOnFrameAndPin : ∃ s s' : State, s.par = s'.par ∧ crcOk s = crcOk s' ∧
    s.cmd = s'.cmd ∧ pinLevel s = pinLevel s' ∧ s.pinOut ≠ s'.pinOut ∧ isNext (dispatchFrame s) ∧
    isNext (dispatchFrame s') :=
  ⟨completed 0x02 0x6F1F .low, { completed 0x02 0x6F1F .low with pinOut := some .high, lastRx := 7 }, by decide +kernel⟩

theorem witness_AcknowledgedPinActionsAreConfirmed :
    (after (lastByte 0x01 0x5F 0x7C .high)).map (fun t =>
      let e := eventsSince (lastByte 0x01 0x5F 0x7C .high) t
      decide (.pinWrite .high ∈ e ∧ .sinkWrite (encodeResponse thisHardware ⟨thisHardware.ackByte, 0x02⟩) ∈ e)) =
    some true := by decide +kernel

theorem witness_ElapsedTimeAcrossClockWrap : 2 ^ 32 - 1 < 2 ^ 32 ∧ elapsed 32 ((2 ^ 32 - 1 + 31) % 2 ^ 32) (2 ^ 32 - 1) = 31 := by
  decide +kernel

theorem witness_TimeoutCycle : (inFrame .waitStart2 none 1031).par.ok = true ∧
    rxByte (inFrame .waitStart2 none 1031) = none ∧ timeoutCheck (inFrame .waitStart2 none 1031) = true := by decide

theorem witness_NoTimeoutWhileIdle : (inFrame .waitStart1 none 9999).state = .waitStart1 ∧
    (inFrame .waitStart1 none 9999).par.ok = true ∧ rxByte (inFrame .waitStart1 none 9999) = none := by decide

theorem witness_QuietCycleChangesNothing : (inFrame .waitCmd none 1030).par.ok = true ∧
    rxByte (inFrame .waitCmd none 1030) = none ∧ timeoutCheck (inFrame .waitCmd none 1030) = false := by decide

theorem witness_NoTimeoutInACycleWithAByte : rxByte (inFrame .waitCmd (some 0x00) 5000) = some 0x00 ∧
    isNext (step (inFrame .waitCmd (some 0x00) 5000)) := by decide +kernel

theorem witness_TimeoutInFirstLateCycle : ∃ s : State, s.par.ok = true ∧ s.state ≠ .waitStart1 ∧
    s.inputs = [waitCycle 1010 .low, waitCycle 1030 .low] ++ waitCycle 1031 .low :: [] ∧
    (∀ i ∈ [waitCycle 1010 .low, waitCycle 1030 .low],
      i.rx = none ∧ elapsed s.par.clkW (i.now % 2 ^ s.par.clkW) s.lastRx ≤ s.par.timeoutMs) ∧
    (waitCycle 1031 .low).rx = none ∧ s.par.timeoutMs < elapsed s.par.clkW (1031 % 2 ^ s.par.clkW) s.lastRx :=
  ⟨{ inFrame .waitCrcHi none 0 with inputs := [waitCycle 1010 .low, waitCycle 1030 .low, waitCycle 1031 .low] },
    by decide⟩

theorem witness_StepRunsTheDecodedInstruction : ∃ s : State, s.par.ok = true ∧ s.state = .waitCrcLo ∧
    rxByte s = some 0x3E ∧
    decode s.par [s.start1, s.start2, s.cmd, hiByte s.crcRx, 0x3E] = .ok (.invalid 0x03, []) :=
  ⟨lastByte 0x03 0x7F 0x3E .low, by decide +kernel⟩

theorem witness_BadChecksumCycle : ∃ s : State, s.par.ok = true ∧ s.state = .waitCrcLo ∧ rxByte s = some 0x7D ∧
    joinBytes (hiByte s.crcRx) 0x7D ≠ crc16 s.par [s.start1, s.start2, s.cmd] :=
  ⟨lastByte 0x01 0x5F 0x7D .low, by decide +kernel⟩

theorem witness_PlacedWordRunsNext : State.reset.par.ok = true ∧ 255 < 256 ∧
    isNext (step (State.reset.withFetchWord 8 255)) := by decide +kernel

theorem witness_MarkerMismatchIsSilent_first : ∃ s : State, s.par.ok = true ∧ rxByte s = some 0x43 ∧
    s.state = .waitStart1 ∧ 0x43 ≠ s.par.reqM1 := ⟨withInput (some 0x43) 5 .low, by decide⟩
theorem witness_MarkerMismatchIsSilent_second : ∃ s : State, s.par.ok = true ∧ rxByte s = some 0x57 ∧
    s.state = .waitStart2 ∧ 0x57 ≠ s.par.reqM2 := ⟨inFrame .waitStart2 (some 0x57) 1001, by decide⟩

theorem witness_ByteIntake : isNext (step (withInput (some 0x00) 5 .low)) ∧
    rxByte (withInput (some 0x00) 5 .low) = some 0x00 ∧ isNext (step (withInput none 5 .low)) ∧
    rxByte (withInput none 5 .low) = none := by decide +kernel

theorem witness_StepIsTotal : State.reset.par.ok = true ∧
    (State.resetWith { thisHardware with n := 0 }).par.ok = false := by decide

/-- Serves CycleOutputsSayEverything, ParametersNeverChange, OutputRegisterIsNeverRead, TraceIsNeverRead. -/
theorem witness_step_answers : isNext (step (lastByte 0x00 0x4F 0x5D .low)) := by decide +kernel

theorem witness_ResetMeetsInvariant : thisHardware.ok = true ∧
    ({ thisHardware with n := 3, rspCrcOrder := .loFirst, clkW := 16 } : Params).ok = true := by decide

/-- The invariant holds of a state in the middle of a frame from which a step goes on. -/
theorem witness_StepKeepsInvariant : (inFrame .waitCrcHi (some 0x5F) 1001).Inv ∧
    isNext (step (inFrame .waitCrcHi (some 0x5F) 1001)) :=
  ⟨⟨by decide, by decide, fun _ => by decide, fun _ => by decide, by decide, by decide, by decide⟩, by decide +kernel⟩

theorem witness_ChecksumHighByteHeld :
    (after (inFrame .waitCrcHi (some 0x5F) 1001)).map (·.state) = some .waitCrcLo ∧
    (after (inFrame .waitCrcLo none 1001)).map (·.state) = some .waitCrcLo := by decide +kernel

theorem witness_FrameOverFiveCyclesRunsInstruction : ∃ s : State, s.par.ok = true ∧
    Instr.wellFormed s.par (.invalid 0xFF) = true ∧ s.state = .waitStart1 ∧
    s.inputs = deliver (encode s.par (.invalid 0xFF))
      [(0, .low), (100, .low), (200, .high), (300, .low), (400, .low)] ++ [waitCycle 500 .low] :=
  ⟨coming (encode thisHardware (.invalid 0xFF)) _ _, by decide, by decide, rfl, rfl⟩

theorem witness_ParserReturnsToInitialState_bytes : ∃ s : State, s.par.ok = true ∧ s.state = .waitStart2 ∧
    5 ≤ s.inputs.length ∧ 4 ≤ (s.inputs.take 5).countP (fun i => i.rx.isSome) :=
  ⟨{ inFrame .waitStart2 none 0 with
      inputs := [⟨some 0x43, 1, .low⟩, ⟨some 0x00, 2, .low⟩, ⟨none, 3, .low⟩, ⟨some 0x4F, 4, .low⟩, ⟨some 0x5D, 5, .low⟩] },
    by decide⟩
theorem witness_ParserReturnsToInitialState_timeout : (inFrame .waitCmd none 1031).par.ok = true ∧
    rxByte (inFrame .waitCmd none 1031) = none ∧
    (inFrame .waitCmd none 1031).par.timeoutMs < elapsed 32 (now (inFrame .waitCmd none 1031)) 1000 := by decide

/-- Two idle states that hold different stale registers. -/
theorem witness_StaleRegistersAreUnobservable :
    (withInput (some 0x57) 5 .low).AgreeOnLive
      { withInput (some 0x57) 5 .low with start1 := 0xAA, start2 := 0xBB, cmd := 0x01, crcRx := 0x1234, lastRx := 4 } ∧
    isNext (step (withInput (some 0x57) 5 .low)) :=
  ⟨⟨rfl, rfl, rfl, rfl, rfl, rfl, fun h => absurd rfl h, fun h => absurd rfl h,
    fun h => by simp [pastMarkers, withInput, State.reset, State.resetWith] at h, by decide, by decide⟩, by decide +kernel⟩

theorem witness_DoubledFirstMarkerLosesTheFrame : ∃ s : State, s.par.ok = true ∧ s.par.reqM1 ≠ s.par.reqM2 ∧
    s.state = .waitStart1 ∧
    s.inputs = deliver [s.par.reqM1, s.par.reqM1, s.par.reqM2] [(0, .low), (1, .low), (2, .low)] ++ [] :=
  ⟨coming [0x57, 0x57, 0x43] _ _, by decide, by decide, rfl, rfl⟩

theorem witness_LoopedBackResponseIsSilent : ∃ s : State, s.par = thisHardware ∧
    ⟨0x15, 0x20⟩ ∈ emittedPairs thisHardware ∧ s.state = .waitStart1 ∧
    s.inputs = deliver (encodeResponse thisHardware ⟨0x15, 0x20⟩)
      [(0, .low), (1, .low), (2, .low), (3, .low), (4, .low), (5, .high)] ++ [] :=
  ⟨coming (encodeResponse thisHardware ⟨0x15, 0x20⟩) _ _, rfl, by decide, rfl, rfl⟩

end Sys2Proof.Tests
end

section
/-! # 00_scope.md: the parameter record and the response -/

namespace Sys2Proof.Machine

/-! ## Raising and responding, as one record update each (R12) -/

theorem respond_eq (a st : Byte) (s : State) : respond a st s = { s with resp := some ⟨a, st⟩ } := rfl

/-- One equation for every error; what an error's own code is, `errorCode` says (60_exceptions.md R230). -/
theorem raiseError_eq (e : ErrorStatus) (s : State) :
    raiseError e s = { s with resp := some ⟨s.par.nakByte, errorCode s.par e⟩ } := respond_eq _ _ s

/-- Settles O31: each error is an instance of `raiseError_eq`, and `respond` is `respond_eq`. -/
theorem raisingAnErrorOnlySetsTheResponse : Obligations.RaisingAnErrorOnlySetsTheResponse := fun s =>
  ⟨raiseError_eq .invalidCrc s, raiseError_eq .invalidCommand s, raiseError_eq .pinWriteError s,
    raiseError_eq .timeoutError s, fun a st => respond_eq a st s⟩

/-! ## The parameter record (R7) -/

@[simp] theorem parserStep_par (b : Byte) (s : State) : (parserStep b s).1.par = s.par := by
  rw [parserStep_frame]

/-- Settles O46, by the four kinds of poll cycle of `step_cases`: quiet, timed out, a byte inside a frame, and a
completed frame. Only the third runs the parser, which `parserStep_par` covers. -/
theorem parametersNeverChange : Obligations.ParametersNeverChange := by
  intro s t h
  obtain ⟨-, ⟨-, -, rfl⟩ | ⟨-, -, rfl⟩ | ⟨b, -, -, rfl⟩ | ⟨b, po, evs, r, -, -, -, rfl⟩⟩ := step_cases h
  · exact closeCycle_par s
  · rw [closeCycle_par, sinkWrite_par]
  · rw [closeCycle_par, parserStep_par, noteActivity_par]
  · rw [closeCycle_par]

end Sys2Proof.Machine
end

section
/-! # 10_state.md: the state record, its invariant and what of it can be observed -/

namespace Sys2Proof.Machine

/-! ## The parser state register (R21) -/

/-- Settles O20. The second clause, checked state by state over the eight codes, says that `stateOfCode` inverts
`stateCode`; the first is the second at `c = stateCode st`. -/
theorem parserStatePortEncoding : Obligations.ParserStatePortEncoding := by
  have inverse : ∀ c st, stateOfCode c = some st ↔ stateCode st = c := by
    intro c st
    cases st <;> revert c <;> decide
  exact ⟨fun st => (inverse _ st).2 rfl, inverse, by decide⟩

theorem pastMarkers_iff (st : ParserState) : pastMarkers st ↔ st = .waitCmd ∨ st = .waitCrcHi ∨ st = .waitCrcLo :=
  Iff.rfl

@[simp] theorem not_pastMarkers_waitStart1 : ¬ pastMarkers .waitStart1 := by simp [pastMarkers_iff]
@[simp] theorem not_pastMarkers_waitStart2 : ¬ pastMarkers .waitStart2 := by simp [pastMarkers_iff]

/-! ## Reading the trace -/

@[simp] theorem sinkWrites_append (l m : List Event) : sinkWrites (l ++ m) = sinkWrites l ++ sinkWrites m :=
  List.filterMap_append

@[simp] theorem pinWrites_append (l m : List Event) : pinWrites (l ++ m) = pinWrites l ++ pinWrites m :=
  List.filterMap_append

@[simp] theorem sinkWrites_sinkWrite (f : List Byte) : sinkWrites [.sinkWrite f] = [f] := rfl
@[simp] theorem pinWrites_sinkWrite (f : List Byte) : pinWrites [.sinkWrite f] = [] := rfl

/-! ## What a command leaves behind -/

namespace CommandOutcome

variable {s : State} {po : Option Level} {evs : List Event} {r : Response}

/-- Sending is the poll cycle's business, not a command's (R214). -/
theorem sinkWrites_eq_nil (h : CommandOutcome s po evs r) : sinkWrites evs = [] := by cases h <;> rfl

/-- The output register holds the level the command drove, or what it held before (R27). -/
theorem pinOut_eq (h : CommandOutcome s po evs r) : po = (pinWrites evs).getLast?.or s.pinOut := by cases h <;> rfl

end CommandOutcome

theorem exec_pinOut_of_no_write {i : Instr} {s t : State} (h : exec i s = .next t) (hd : i ≠ .disable)
    (he : i ≠ .enable) : t.pinOut = s.pinOut := by
  cases i with
  | disable => exact absurd rfl hd
  | enable => exact absurd rfl he
  | getConfig => cases h; rfl
  | invalid c => cases h; rfl

/-- Settles O25: by `exec_outcome` a command changes `pinOut`, `trace` and `resp` alone, and its events hold no
`SinkWrite`. -/
theorem commandsLeaveTheRestUnchanged : Obligations.CommandsLeaveTheRestUnchanged := by
  intro i s t h
  have hpin := exec_pinOut_of_no_write h
  obtain ⟨po, evs, r, ho, he⟩ := exec_outcome i s
  obtain rfl : _ = t := by simpa [he] using h
  have hev := eventsSince_append (s := s) (t := { s with pinOut := po, trace := s.trace ++ evs, resp := some r }) rfl
  refine ⟨rfl, rfl, rfl, rfl, rfl, rfl, rfl, rfl, rfl, hpin, ?_, ?_⟩
  · rw [hev]
  · rw [hev, ho.sinkWrites_eq_nil]

/-! ## The invariant (R26, R27, R33, R68) -/

/-- Settles O48: the parser is in `WaitStart1` with an empty trace and a zero clock. -/
theorem resetMeetsInvariant : Obligations.ResetMeetsInvariant := by
  intro p hp
  exact {
    parOk := hp
    noResp := rfl
    firstMarker := fun h => absurd rfl h
    secondMarker := fun h => absurd h not_pastMarkers_waitStart1
    clock := Nat.two_pow_pos _
    framesLegal := fun _ hf => absurd hf List.not_mem_nil
    pinOutDriven := rfl }

theorem now_lt (s : State) : now s < 2 ^ s.par.clkW := Nat.mod_lt _ (Nat.two_pow_pos _)

/-! The parser's frame (`parserStep_frame`), field by field. -/

@[simp] theorem parserStep_lastRx (b : Byte) (s : State) : (parserStep b s).1.lastRx = s.lastRx := by
  rw [parserStep_frame]
@[simp] theorem parserStep_pinOut (b : Byte) (s : State) : (parserStep b s).1.pinOut = s.pinOut := by
  rw [parserStep_frame]
@[simp] theorem parserStep_trace (b : Byte) (s : State) : (parserStep b s).1.trace = s.trace := by
  rw [parserStep_frame]

/-- The parser leaves `WaitStart1` on the first marker only, and writes it (R100). -/
theorem parserStep_firstMarker (b : Byte) {s : State} (h : s.state ≠ .waitStart1 → s.start1 = s.par.reqM1) :
    (parserStep b s).1.state ≠ .waitStart1 → (parserStep b s).1.start1 = s.par.reqM1 := by
  obtain ⟨_, hb, e⟩ | ⟨_, _, e⟩ | ⟨hst, _, e⟩ | ⟨_, _, e⟩ | ⟨hst, e⟩ | ⟨hst, e⟩ | ⟨_, e⟩ := parserStep_cases b s <;>
    rw [e]
  · exact fun _ => hb
  · exact h
  · exact fun _ => h (by simp [hst])
  · exact fun hne => absurd rfl hne
  · exact fun _ => h (by simp [hst])
  · exact fun _ => h (by simp [hst])
  · exact fun hne => absurd rfl hne

/-- The parser passes `WaitStart2` on the second marker only, and writes it (R101). -/
theorem parserStep_secondMarker (b : Byte) {s : State} (h : pastMarkers s.state → s.start2 = s.par.reqM2) :
    pastMarkers (parserStep b s).1.state → (parserStep b s).1.start2 = s.par.reqM2 := by
  obtain ⟨_, _, e⟩ | ⟨_, _, e⟩ | ⟨_, hb, e⟩ | ⟨_, _, e⟩ | ⟨hst, e⟩ | ⟨hst, e⟩ | ⟨_, e⟩ := parserStep_cases b s <;>
    rw [e]
  · exact fun hp => absurd hp not_pastMarkers_waitStart2
  · exact h
  · exact fun _ => hb
  · exact fun hp => absurd hp not_pastMarkers_waitStart1
  · exact fun _ => h (.inl hst)
  · exact fun _ => h (.inr (.inl hst))
  · exact fun hp => absurd hp not_pastMarkers_waitStart1

/-- A cycle that interacts with nothing keeps the invariant if it keeps the markers and the clock. -/
theorem State.Inv.silent {s t : State} (hs : s.Inv) (hpar : t.par = s.par) (hresp : t.resp = none)
    (hfirst : t.state ≠ .waitStart1 → t.start1 = s.par.reqM1) (hsecond : pastMarkers t.state → t.start2 = s.par.reqM2)
    (hclock : t.lastRx < 2 ^ s.par.clkW) (htrace : t.trace = s.trace) (hpin : t.pinOut = s.pinOut) : t.Inv where
  parOk := by rw [hpar, hs.parOk]
  noResp := hresp
  firstMarker := by rwa [hpar]
  secondMarker := by rwa [hpar]
  clock := by rwa [hpar]
  framesLegal := by rw [htrace, hpar]; exact hs.framesLegal
  pinOutDriven := by rw [htrace, hpin, hs.pinOutDriven]

/-- A cycle that ends in `WaitStart1` with one of the six responses sent, after pin accesses `evs` that account for the
output register, keeps the invariant. -/
theorem State.Inv.answer {s t : State} {evs : List Event} {r : Response} (hs : s.Inv) (hpar : t.par = s.par)
    (hresp : t.resp = none) (hst : t.state = .waitStart1) (hclock : t.lastRx < 2 ^ s.par.clkW)
    (htrace : t.trace = s.trace ++ evs ++ [.sinkWrite (encodeResponse s.par r)]) (hsink : sinkWrites evs = [])
    (hr : r ∈ emittedPairs s.par) (hpin : t.pinOut = (pinWrites evs).getLast?.or s.pinOut) : t.Inv where
  parOk := by rw [hpar, hs.parOk]
  noResp := hresp
  firstMarker h := absurd hst h
  secondMarker h := absurd (hst ▸ h) not_pastMarkers_waitStart1
  clock := by rwa [hpar]
  framesLegal f hf := by
    rw [hpar]
    have hf : f ∈ sinkWrites s.trace ∨ f = encodeResponse s.par r := by simpa [htrace, hsink] using hf
    obtain hf | rfl := hf
    · exact hs.framesLegal f hf
    · exact ⟨r, hr, rfl⟩
  pinOutDriven := by simp [htrace, hpin, hs.pinOutDriven, List.getLast?_append]

/-- Settles O47, by the four kinds of poll cycle of `step_cases`. A quiet cycle and a byte inside a frame are
`State.Inv.silent`, a timeout and a completed frame `State.Inv.answer`. -/
theorem stepKeepsInvariant : Obligations.StepKeepsInvariant := by
  intro s t hs h
  obtain ⟨-, ⟨-, -, rfl⟩ | ⟨-, -, rfl⟩ | ⟨b, -, -, rfl⟩ | ⟨b, po, evs, r, -, -, ho, rfl⟩⟩ := step_cases h
  · exact hs.silent rfl rfl hs.firstMarker hs.secondMarker hs.clock rfl rfl
  · exact hs.answer (evs := []) (r := ⟨s.par.nakByte, s.par.stTimeoutError⟩) rfl rfl rfl hs.clock (by simp) rfl
      (by simp [emittedPairs]) rfl
  · exact hs.silent (by simp) rfl (parserStep_firstMarker b hs.firstMarker)
      (parserStep_secondMarker b hs.secondMarker) (by simp [now_lt]) (by simp) (by simp)
  · exact hs.answer rfl rfl rfl (now_lt s) rfl ho.sinkWrites_eq_nil ho.emitted ho.pinOut_eq

/-- Only the checksum's high byte leads into `WaitCrcLo` (R103). -/
theorem parserStep_into_waitCrcLo {b : Byte} {s : State} (hst : s.state ≠ .waitCrcLo)
    (h : (parserStep b s).1.state = .waitCrcLo) :
    s.state = .waitCrcHi ∧ hiByte (parserStep b s).1.crcRx = b := by
  obtain ⟨_, _, e⟩ | ⟨_, _, e⟩ | ⟨_, _, e⟩ | ⟨_, _, e⟩ | ⟨_, e⟩ | ⟨hs, e⟩ | ⟨hs, e⟩ := parserStep_cases b s <;>
    rw [e] at h ⊢
  · cases h
  · exact absurd h hst
  · cases h
  · cases h
  · cases h
  · exact ⟨hs, hiByte_setHiByte _ _⟩
  · exact absurd hs hst

/-- Settles O49, by the four kinds of poll cycle: a quiet one keeps both registers, a byte inside a frame is
`parserStep_into_waitCrcLo`, and a timeout or a completed frame ends in `WaitStart1`. -/
theorem checksumHighByteHeld : Obligations.ChecksumHighByteHeld := by
  intro s t h hlo
  obtain ⟨-, ⟨-, -, rfl⟩ | ⟨-, -, rfl⟩ | ⟨b, hrx, hst, rfl⟩ | ⟨b, po, evs, r, -, -, -, rfl⟩⟩ := step_cases h
  · exact .inl ⟨hlo, rfl⟩
  · cases hlo
  · obtain ⟨hhi, hb⟩ := parserStep_into_waitCrcLo (s := noteActivity s) hst hlo
    exact .inr ⟨hhi, b, hrx, hb⟩
  · cases hlo

/-! ## Two states side by side: what a completed frame's answer depends on -/

/-- The level driven, the events and the response of a command are fixed by the parameters and the pin's level. -/
theorem exec_uniform (i : Instr) (p : Params) (v : Level) : ∃ (d : Option Level) (evs : List Event) (r : Response),
    ∀ s : State, s.par = p → pinLevel s = v →
      exec i s = .next { s with pinOut := d.or s.pinOut, trace := s.trace ++ evs, resp := some r } := by
  cases i with
  | disable =>
    refine ⟨some p.disableLevel, [.pinWrite p.disableLevel, .pinRead v],
      if v = p.disableLevel then ⟨p.ackByte, p.stDisabled⟩ else ⟨p.nakByte, p.stPinWriteError⟩, ?_⟩
    rintro s rfl rfl
    rw [exec, execDisable, writeThenVerify_eq, Option.some_or]
  | enable =>
    refine ⟨some p.enableLevel, [.pinWrite p.enableLevel, .pinRead v],
      if v = p.enableLevel then ⟨p.ackByte, p.stEnabled⟩ else ⟨p.nakByte, p.stPinWriteError⟩, ?_⟩
    rintro s rfl rfl
    rw [exec, execEnable, writeThenVerify_eq, Option.some_or]
  | getConfig =>
    refine ⟨none, [.pinRead v], ⟨p.ackByte, if v = p.enableLevel then p.stEnabled else p.stDisabled⟩, ?_⟩
    rintro s rfl rfl
    rfl
  | invalid c =>
    refine ⟨none, [], ⟨p.nakByte, p.stInvalidCommand⟩, ?_⟩
    rintro s rfl -
    rw [List.append_nil]
    rfl

/-- The same of a dispatch, which looks at the checksum's verdict and the command byte besides. -/
theorem dispatchFrame_uniform (p : Params) (ok : Bool) (c : Byte) (v : Level) :
    ∃ (d : Option Level) (evs : List Event) (r : Response), ∀ s : State,
      s.par = p → crcOk s = ok → s.cmd = c → pinLevel s = v →
        dispatchFrame s = .next { s with pinOut := d.or s.pinOut, trace := s.trace ++ evs, resp := some r } := by
  cases ok with
  | true =>
    obtain ⟨d, evs, r, h⟩ := exec_uniform (decodeCmd p c) p v
    refine ⟨d, evs, r, ?_⟩
    rintro s rfl hok rfl hv
    rw [dispatchFrame, if_pos hok, h s rfl hv]
  | false =>
    refine ⟨none, [], ⟨p.nakByte, p.stInvalidCrc⟩, ?_⟩
    rintro s rfl hok - -
    rw [dispatchFrame, hok, List.append_nil]
    rfl

/-- A cycle that completes a frame, from what the dispatch does. -/
theorem step_of_dispatch {s : State} {b : Byte} {po : Option Level} {evs : List Event} {r : Response}
    (hok : s.par.ok = true) (hrx : rxByte s = some b) (hst : s.state = .waitCrcLo)
    (hd : dispatchFrame (frameTaken b s) =
      .next { frameTaken b s with pinOut := po, trace := s.trace ++ evs, resp := some r }) :
    step s = .next (closeCycle { frameTaken b s with
      pinOut := po, trace := s.trace ++ evs ++ [.sinkWrite (encodeResponse s.par r)] }) := by
  rw [step_of_completion hok hrx hst, hd]
  rfl

/-- Two states in which the same byte completes the same frame drive the pin, interact and answer alike, whatever else
they hold. -/
theorem step_completion_pair {s t : State} {b : Byte} (hok : s.par.ok = true) (hrx : rxByte s = some b)
    (hst : s.state = .waitCrcLo) (hpar : t.par = s.par) (hstate : t.state = s.state)
    (hinput : currentInput t = currentInput s) (hcrc : crcOk (frameTaken b t) = crcOk (frameTaken b s))
    (hcmd : t.cmd = s.cmd) : ∃ (d : Option Level) (evs : List Event),
      step s = .next (closeCycle { frameTaken b s with pinOut := d.or s.pinOut, trace := s.trace ++ evs }) ∧
      step t = .next (closeCycle { frameTaken b t with pinOut := d.or t.pinOut, trace := t.trace ++ evs }) := by
  obtain ⟨d, evs, r, h⟩ := dispatchFrame_uniform s.par (crcOk (frameTaken b s)) s.cmd (pinLevel s)
  have hs := step_of_dispatch hok hrx hst (h (frameTaken b s) rfl rfl rfl rfl)
  have ht := step_of_dispatch (hpar ▸ hok) ((congrArg CycleInput.rx hinput).trans hrx) (hstate.trans hst)
    (h (frameTaken b t) hpar hcrc hcmd (congrArg CycleInput.pinRd hinput))
  rw [hpar] at ht
  exact ⟨d, evs ++ [.sinkWrite (encodeResponse s.par r)], by rw [hs, List.append_assoc], by rw [ht, List.append_assoc]⟩

/-! `step_of_noByte`, by the supervisor's verdict. -/

theorem step_quiet {s : State} (hok : s.par.ok = true) (hrx : rxByte s = none) (hc : timeoutCheck s = false) :
    step s = .next (closeCycle s) := by
  simp [step_of_noByte hok hrx, hc]

theorem step_timeout {s : State} (hok : s.par.ok = true) (hrx : rxByte s = none) (hc : timeoutCheck s = true) :
    step s = .next (closeCycle (sinkWrite (encodeResponse s.par ⟨s.par.nakByte, s.par.stTimeoutError⟩)
      { s with state := .waitStart1 })) := by
  simp [step_of_noByte hok hrx, hc]

/-! ## The output register (R27) -/

theorem parserStep_with_pinOut (b : Byte) (s : State) (x : Option Level) :
    (parserStep b { s with pinOut := x }).1 = { (parserStep b s).1 with pinOut := x } := by
  cases hst : s.state
  case waitStart1 => by_cases hb : b = s.par.reqM1 <;> simp [parserStep, hst, hb]
  case waitStart2 => by_cases hb : b = s.par.reqM2 <;> simp [parserStep, hst, hb]
  all_goals simp [parserStep, hst]

/-- Settles O52, by the kind of poll cycle: without a byte, with a byte inside a frame, with a frame's last byte. The
last one alone writes the output register, with the same level in both states if it drives the pin. -/
theorem outputRegisterIsNeverRead : Obligations.OutputRegisterIsNeverRead := by
  intro s t x h
  have hok := par_ok_of_step h
  cases hrx : rxByte s with
  | none =>
    cases hc : timeoutCheck s
    · cases (step_quiet hok hrx hc).symm.trans h
      exact ⟨x, step_quiet (s := { s with pinOut := x }) hok hrx hc⟩
    · cases (step_timeout hok hrx hc).symm.trans h
      exact ⟨x, step_timeout (s := { s with pinOut := x }) hok hrx hc⟩
  | some b =>
    by_cases hst : s.state = .waitCrcLo
    · obtain ⟨d, evs, hs, hx⟩ := step_completion_pair (t := { s with pinOut := x }) hok hrx hst rfl rfl rfl rfl rfl
      cases hs.symm.trans h
      exact ⟨d.or x, hx⟩
    · cases (step_of_byte hok hrx hst).symm.trans h
      have hx := step_of_byte (s := { s with pinOut := x }) hok hrx hst
      have hp := parserStep_with_pinOut b (noteActivity s) x
      exact ⟨x, hx.trans (congrArg (fun u : State => Host.Outcome.next (closeCycle u)) hp)⟩

/-! ## Stale registers (R22 to R26, R263) -/

namespace State.AgreeOnLive

variable {s t : State}

/-- In `WaitStart1` no frame register and no timestamp is live. -/
theorem of_idle (hst : s.state = .waitStart1) (hpar : s.par = t.par) (hstate : s.state = t.state)
    (hpin : s.pinOut = t.pinOut) (hinputs : s.inputs = t.inputs) (hcycle : s.cycle = t.cycle)
    (htrace : s.trace = t.trace) : s.AgreeOnLive t where
  par := hpar
  state := hstate
  pinOut := hpin
  inputs := hinputs
  cycle := hcycle
  trace := htrace
  lastRx h := absurd hst h
  start1 h := absurd hst h
  start2 h := absurd (hst ▸ h) not_pastMarkers_waitStart1
  cmd h := by simp [hst] at h
  crcHi h := by simp [hst] at h

theorem currentInput_eq (h : s.AgreeOnLive t) : currentInput s = currentInput t := currentInput_congr h.inputs h.cycle

theorem now_eq (h : s.AgreeOnLive t) : now s = now t := by rw [now, now, h.currentInput_eq, h.par]

/-- The supervisor reads the timestamp only where it is live (R172). -/
theorem timeoutCheck_eq (h : s.AgreeOnLive t) : timeoutCheck s = timeoutCheck t := by
  by_cases hst : s.state = .waitStart1
  · simp [timeoutCheck, ← h.state, hst]
  · simp [timeoutCheck, ← h.state, ← h.par, h.now_eq, h.lastRx hst]

theorem closeCycle (h : s.AgreeOnLive t) : (closeCycle s).AgreeOnLive (closeCycle t) :=
  { h with inputs := congrArg List.tail h.inputs, cycle := congrArg (· + 1) h.cycle }

theorem noteActivity (h : s.AgreeOnLive t) : (noteActivity s).AgreeOnLive (noteActivity t) :=
  { h with lastRx := fun _ => h.now_eq }

/-- The checksum of a completed frame is over registers that are live in `WaitCrcLo` (R123). -/
theorem crcOk_frameTaken (h : s.AgreeOnLive t) (hst : s.state = .waitCrcLo) (b : Byte) :
    crcOk (frameTaken b s) = crcOk (frameTaken b t) := by
  simp [crcOk, setLoByte, h.par, h.start1 (by simp [hst]), h.start2 (by simp [hst, pastMarkers_iff]), h.cmd (.inr hst),
    h.crcHi hst]

/-- The parser makes a register live only by writing it; that the timestamps agree is asked because a first marker makes
them live. -/
theorem parserStep (h : s.AgreeOnLive t) (hlast : s.lastRx = t.lastRx) (b : Byte) :
    (parserStep b s).1.AgreeOnLive (parserStep b t).1 := by
  cases hst : s.state <;> have htst := h.state.symm.trans hst <;> simp only [Machine.parserStep, hst, htst, ← h.par]
  case waitStart1 =>
    by_cases hb : b = s.par.reqM1
    · simp only [if_pos hb]
      exact { h with
        par := rfl, state := rfl, lastRx := fun _ => hlast, start1 := fun _ => rfl
        start2 := by simp, cmd := by simp, crcHi := by simp }
    · simpa only [if_neg hb] using h
  case waitStart2 =>
    by_cases hb : b = s.par.reqM2
    · simp only [if_pos hb]
      exact { h with
        par := rfl, state := rfl, lastRx := fun _ => hlast, start1 := fun _ => h.start1 (by simp [hst])
        start2 := fun _ => rfl, cmd := by simp, crcHi := by simp }
    · simp only [if_neg hb]
      exact of_idle rfl rfl rfl h.pinOut h.inputs h.cycle h.trace
  case waitCmd =>
    exact { h with
      par := rfl, state := rfl, lastRx := fun _ => hlast, start1 := fun _ => h.start1 (by simp [hst])
      start2 := fun _ => h.start2 (.inl hst), cmd := fun _ => rfl, crcHi := by simp }
  case waitCrcHi =>
    exact { h with
      par := rfl, state := rfl, lastRx := fun _ => hlast, start1 := fun _ => h.start1 (by simp [hst])
      start2 := fun _ => h.start2 (.inr (.inl hst)), cmd := fun _ => h.cmd (.inl hst), crcHi := by simp }
  case waitCrcLo => exact of_idle rfl rfl rfl h.pinOut h.inputs h.cycle h.trace

end State.AgreeOnLive

/-- Settles O54, by the kind of poll cycle: without a byte, with a byte inside a frame (`State.AgreeOnLive.parserStep`),
with a frame's last byte (`step_completion_pair`). After a timeout or an answer no register is live. -/
theorem staleRegistersAreUnobservable : Obligations.StaleRegistersAreUnobservable := by
  intro s t s' ha h
  have hoks := par_ok_of_step h
  have hokt : t.par.ok = true := ha.par ▸ hoks
  have hrxt : rxByte t = rxByte s := congrArg CycleInput.rx ha.currentInput_eq.symm
  cases hrx : rxByte s with
  | none =>
    have hrxt := hrxt.trans hrx
    cases hc : timeoutCheck s <;> have hct := ha.timeoutCheck_eq.symm.trans hc
    · cases (step_quiet hoks hrx hc).symm.trans h
      exact ⟨_, step_quiet hokt hrxt hct, ha.closeCycle⟩
    · cases (step_timeout hoks hrx hc).symm.trans h
      exact ⟨_, step_timeout hokt hrxt hct, .closeCycle
        (.of_idle rfl ha.par rfl ha.pinOut ha.inputs ha.cycle (by simp [ha.trace, ha.par]))⟩
  | some b =>
    by_cases hst : s.state = .waitCrcLo
    · obtain ⟨d, evs, hs, ht⟩ := step_completion_pair hoks hrx hst ha.par.symm ha.state.symm ha.currentInput_eq.symm
        (ha.crcOk_frameTaken hst b).symm (ha.cmd (.inr hst)).symm
      cases hs.symm.trans h
      exact ⟨_, ht, .of_idle rfl ha.par rfl (congrArg d.or ha.pinOut) (congrArg List.tail ha.inputs)
        (congrArg (· + 1) ha.cycle) (congrArg (· ++ evs) ha.trace)⟩
    · have ht := step_of_byte hokt (hrxt.trans hrx) (ha.state ▸ hst)
      cases (step_of_byte hoks hrx hst).symm.trans h
      exact ⟨_, ht, (ha.noteActivity.parserStep ha.now_eq b).closeCycle⟩

end Sys2Proof.Machine
end

section
/-! # 20_memory.md: the trace of interactions -/

namespace Sys2Proof.Machine

/-! ## The trace is an output (R42, log 5) -/

/-- The parser acts on its own registers whatever was recorded before (R100 to R104). -/
theorem parserStep_with_trace (b : Byte) (s : State) (x : List Event) :
    (parserStep b { s with trace := x }).1 = { (parserStep b s).1 with trace := x } := by
  cases hst : s.state with
  | waitStart1 => by_cases hb : b = s.par.reqM1 <;> simp [parserStep, hst, hb]
  | waitStart2 => by_cases hb : b = s.par.reqM2 <;> simp [parserStep, hst, hb]
  | waitCmd | waitCrcHi | waitCrcLo => simp [parserStep, hst]

/-- A poll cycle appends the same events to any trace. By the kind of poll cycle: without a byte, with a byte inside a
frame (`parserStep_with_trace`), with a frame's last byte (`step_completion_pair`). -/
theorem step_with_trace {s t : State} (x : List Event) (h : step s = .next t) : ∃ evs : List Event,
    t.trace = s.trace ++ evs ∧ step { s with trace := x } = .next { t with trace := x ++ evs } := by
  have hok := par_ok_of_step h
  cases hrx : rxByte s with
  | none =>
    cases hc : timeoutCheck s
    · cases (step_quiet hok hrx hc).symm.trans h
      refine ⟨[], (List.append_nil _).symm, ?_⟩
      rw [List.append_nil]
      exact step_quiet (s := { s with trace := x }) hok hrx hc
    · cases (step_timeout hok hrx hc).symm.trans h
      exact ⟨_, rfl, step_timeout (s := { s with trace := x }) hok hrx hc⟩
  | some b =>
    by_cases hst : s.state = .waitCrcLo
    · obtain ⟨d, evs, hs, hx⟩ := step_completion_pair (t := { s with trace := x }) hok hrx hst rfl rfl rfl rfl rfl
      cases hs.symm.trans h
      exact ⟨evs, rfl, hx⟩
    · cases (step_of_byte hok hrx hst).symm.trans h
      have hx := step_of_byte (s := { s with trace := x }) hok hrx hst
      have hp := parserStep_with_trace b (noteActivity s) x
      refine ⟨[], by simp, ?_⟩
      rw [List.append_nil]
      exact hx.trans (congrArg (fun u : State => Host.Outcome.next (closeCycle u)) hp)

/-- Settles O53: the events `step_with_trace` names are the cycle's own, `eventsSince s t`. -/
theorem traceIsNeverRead : Obligations.TraceIsNeverRead := by
  intro s t x h
  obtain ⟨evs, ht, hx⟩ := step_with_trace x h
  rwa [eventsSince_append ht]

end Sys2Proof.Machine
end

section
/-! # 30_encoding.md: request and response frames -/

namespace Sys2Proof

open Machine

/-! ## The command map (R65) -/

/-- By instruction, from the family `Laws.CmdByte`. -/
theorem decodeCmd_cmdByte {p : Params} {i : Instr} (hp : p.ok = true) (hw : i.wellFormed p = true) :
    decodeCmd p (i.cmdByte p) = i := by
  cases i with
  | disable => exact Laws.CmdByte.disable p hp hw
  | enable => exact Laws.CmdByte.enable p hp hw
  | getConfig => exact Laws.CmdByte.getConfig p hp hw
  | invalid c => exact Laws.CmdByte.invalid c p hp hw

/-- Under R8 the command map and the command byte of a well-formed instruction are inverse to each other. -/
theorem decodeCmd_eq_iff {p : Params} (hp : p.ok = true) (c : Byte) (i : Instr) :
    decodeCmd p c = i ↔ i.wellFormed p = true ∧ c = i.cmdByte p := by
  constructor
  · rintro rfl
    exact ⟨decodeCmd_wellFormed p c, (cmdByte_decodeCmd p c).symm⟩
  · rintro ⟨hw, rfl⟩
    exact decodeCmd_cmdByte hp hw

theorem wellFormed_invalid_iff (p : Params) (c : Byte) :
    (Instr.invalid c).wellFormed p = true ↔ c ≠ p.cmdDisable ∧ c ≠ p.cmdEnable ∧ c ≠ p.cmdGetConfig := by
  simp [Instr.wellFormed, and_assoc]

/-- Settles O4: each row is `decodeCmd_eq_iff` for its instruction; the default arm's condition is
`wellFormed_invalid_iff`. -/
theorem commandMapIsExactComparison : Obligations.CommandMapIsExactComparison := by
  intro p c hp
  refine ⟨?_, ?_, ?_, fun d => ?_⟩ <;> rw [decodeCmd_eq_iff hp]
  · exact and_iff_right rfl
  · exact and_iff_right rfl
  · exact and_iff_right rfl
  · rw [wellFormed_invalid_iff]
    constructor
    · rintro ⟨hw, rfl⟩
      exact ⟨rfl, hw⟩
    · rintro ⟨rfl, hw⟩
      exact ⟨hw, rfl⟩

/-! ## Decoding and encoding a request frame (R60, R61) -/

theorem decode_of_length_lt {p : Params} {bs : List Byte} (h : bs.length < 5) : decode p bs = .error .truncated := by
  unfold decode
  split
  · simp at h
    omega
  · rfl

/-- Exactly the CRC-valid request frames decode, each to the instruction of its command byte. -/
theorem decode_ok_iff {p : Params} {bs rest : List Byte} {i : Instr} :
    decode p bs = .ok (i, rest) ↔ ∃ c, bs = request p c ++ rest ∧ i = decodeCmd p c := by
  constructor
  · intro hd
    match bs, hd with
    | m1 :: m2 :: c :: h :: l :: tail, hd =>
      obtain ⟨rfl, rfl, hcrc, hi, rfl⟩ := decode_ok_inv hd
      obtain ⟨rfl, rfl⟩ := (joinBytes_eq_iff h l _).1 hcrc
      exact ⟨c, rfl, hi⟩
    | [], hd | [_], hd | [_, _], hd | [_, _, _], hd | [_, _, _, _], hd => nomatch hd
  · rintro ⟨c, rfl, rfl⟩
    exact decode_request p c rest

/-- Settles O1: the frame decodes to what its command byte stands for (`decode_request`), and that is the instruction
(`decodeCmd_cmdByte`). -/
theorem decodeOfEncodedFrameIsInstruction : Obligations.DecodeOfEncodedFrameIsInstruction := by
  intro p i rest hp hw
  rw [encode, decode_request, decodeCmd_cmdByte hp hw]

/-- Settles O2: by `decode_ok_iff` the bytes are the request frame of a command byte `c`, and `decodeCmd p c` has
command byte `c`. -/
theorem decodedBytesAreTheEncodedFrame : Obligations.DecodedBytesAreTheEncodedFrame := by
  intro p bs rest i hd
  obtain ⟨c, hbs, rfl⟩ := decode_ok_iff.1 hd
  exact ⟨decodeCmd_wellFormed p c, by rw [encode, cmdByte_decodeCmd, hbs]⟩

/-- Settles O3: the short lists by `decode_of_length_lt`, the others by the branch of `decode_five` that rejects
them. -/
theorem malformedFramesRejectedByName : Obligations.MalformedFramesRejectedByName := by
  intro p m1 m2 c h l rest
  refine ⟨fun bs => decode_of_length_lt, fun h1 => ?_, fun h1 h2 => ?_, fun h1 h2 hcrc => ?_⟩ <;> rw [decode_five]
  · rw [if_pos h1]
  · rw [if_neg (not_not.2 h1), if_pos h2]
  · rw [if_neg (not_not.2 h1), if_neg (not_not.2 h2), if_pos hcrc]

/-- Settles O5: each frame is the CRC-valid request of its command byte, checked by evaluating the CRC, so
`decode_ok_iff` applies. -/
theorem canonicalRequestFramesDecode : Obligations.CanonicalRequestFramesDecode :=
  ⟨decode_ok_iff.2 ⟨0x00, by decide +kernel⟩, decode_ok_iff.2 ⟨0x01, by decide +kernel⟩,
    decode_ok_iff.2 ⟨0x02, by decide +kernel⟩, decode_ok_iff.2 ⟨0x03, by decide +kernel⟩,
    decode_ok_iff.2 ⟨0xFF, by decide +kernel⟩⟩

end Sys2Proof

namespace Sys2Proof.Machine

/-! ## Response frames (R62) -/

/-- Settles O6: every parameter and byte is given, so each frame is evaluated. -/
theorem canonicalResponseFrames : Obligations.CanonicalResponseFrames := by
  refine ⟨?_, ?_, ?_, ?_, ?_, ?_, ?_, ?_⟩ <;> decide +kernel

theorem encodeResponse_length {p : Params} (r : Response) (hn : 1 ≤ p.n) : (encodeResponse p r).length = 5 + p.n := by
  rw [encodeResponse, List.length_append, responseBody_length, crcBytes_length]
  omega

theorem responseBody_fill {p : Params} (r : Response) {k : Nat} (h4 : 4 ≤ k) (hk : k < 3 + p.n) :
    (responseBody p r)[k]? = some p.statusFill := by
  obtain ⟨j, rfl⟩ := Nat.exists_eq_add_of_le' h4
  have hj : (responseBody p r)[j + 4]? = (List.replicate (p.n - 1) p.statusFill)[j]? := rfl
  rw [hj, List.getElem?_replicate_of_lt (by omega)]

theorem encodeResponse_getElem?_body {p : Params} (r : Response) {k : Nat} (hn : 1 ≤ p.n) (hk : k < 3 + p.n) :
    (encodeResponse p r)[k]? = (responseBody p r)[k]? := by
  rw [← (encodeResponse_take_drop p r hn).1, List.getElem?_take_of_lt hk]

theorem encodeResponse_getElem?_crc {p : Params} (r : Response) (k : Nat) (hn : 1 ≤ p.n) :
    (encodeResponse p r)[3 + p.n + k]? =
      (crcBytes p.rspCrcOrder (crc16 p ((encodeResponse p r).take (3 + p.n))))[k]? := by
  obtain ⟨htake, hdrop⟩ := encodeResponse_take_drop p r hn
  rw [htake, ← hdrop, List.getElem?_drop]

/-- Settles O11. The frame is a body (`encodeResponse_getElem?_body`), which starts with four given bytes and goes on
with fill (`responseBody_fill`), and after it the two CRC bytes in either order (`encodeResponse_getElem?_crc`). -/
theorem responseFrameLayout : Obligations.ResponseFrameLayout := by
  intro p r hn
  have crcHead := encodeResponse_getElem?_crc r 0 hn
  have crcLast := encodeResponse_getElem?_crc r 1 hn
  rw [show 3 + p.n + 1 = 4 + p.n by omega] at crcLast
  refine ⟨encodeResponse_length r hn, rfl, rfl, rfl, rfl, fun k h4 hk => ?_, fun ho => ?_, fun ho => ?_⟩
  · rw [encodeResponse_getElem?_body r hn hk, responseBody_fill r h4 hk]
  · rw [ho] at crcHead crcLast
    exact ⟨crcHead, crcLast⟩
  · rw [ho] at crcHead crcLast
    exact ⟨crcHead, crcLast⟩

/-- Settles O13: `encodeResponse_injective`. -/
theorem responsePairReadableFromFrame : Obligations.ResponsePairReadableFromFrame :=
  fun p _ _ h => encodeResponse_injective p h

end Sys2Proof.Machine
end

section
/-! # 40_parser.md: the frame parser, and a whole frame over five poll cycles -/

namespace Sys2Proof.Machine

/-! ## The parser, state by state (R100 to R104) -/

section
variable (b : Byte) {s : State}

theorem parserStep_waitStart1 (h : s.state = .waitStart1) : parserStep b s =
    (if b = s.par.reqM1 then { s with start1 := b, state := .waitStart2 } else s, false) := by
  rw [parserStep, h]

theorem parserStep_waitStart2 (h : s.state = .waitStart2) : parserStep b s =
    (if b = s.par.reqM2 then { s with start2 := b, state := .waitCmd } else { s with state := .waitStart1 },
      false) := by
  rw [parserStep, h]

theorem parserStep_waitCmd (h : s.state = .waitCmd) :
    parserStep b s = ({ s with cmd := b, state := .waitCrcHi }, false) := by
  rw [parserStep, h]

theorem parserStep_waitCrcHi (h : s.state = .waitCrcHi) :
    parserStep b s = ({ s with crcRx := setHiByte s.crcRx b, state := .waitCrcLo }, false) := by
  rw [parserStep, h]

theorem parserStep_waitCrcLo (h : s.state = .waitCrcLo) :
    parserStep b s = ({ s with crcRx := setLoByte s.crcRx b, state := .waitStart1 }, true) := by
  rw [parserStep, h]

end

/-- Settles O14: the two branches of `parserStep_waitStart1`. -/
theorem firstMarkerArm : Obligations.FirstMarkerArm := by
  intro b s h
  rw [parserStep_waitStart1 b h]
  constructor <;> intro hb
  · rw [if_pos hb]
  · rw [if_neg hb]

/-- Settles O15: the two branches of `parserStep_waitStart2`. -/
theorem secondMarkerArm : Obligations.SecondMarkerArm := by
  intro b s h
  rw [parserStep_waitStart2 b h]
  constructor <;> intro hb
  · rw [if_pos hb]
  · rw [if_neg hb]

/-- Settles O16: `parserStep_waitCmd`. -/
theorem commandByteArm : Obligations.CommandByteArm := fun b _ h => parserStep_waitCmd b h

/-- Settles O17: the new checksum register is `setHiByte s.crcRx b`. -/
theorem checksumHighArm : Obligations.ChecksumHighArm := fun b s h =>
  ⟨setHiByte s.crcRx b, hiByte_setHiByte _ _, loByte_setHiByte _ _, parserStep_waitCrcHi b h⟩

/-- Settles O18: the new checksum register is `setLoByte s.crcRx b`. -/
theorem checksumLowArm : Obligations.ChecksumLowArm := fun b s h =>
  ⟨setLoByte s.crcRx b, loByte_setLoByte _ _, hiByte_setLoByte _ _, parserStep_waitCrcLo b h⟩

/-- Settles O19: each arm's flag is a constant, and only the arm of `WaitCrcLo` has `true`. -/
theorem completionFlagOnlyAtFifthByte : Obligations.CompletionFlagOnlyAtFifthByte := by
  intro b s
  cases h : s.state with
  | waitStart1 => simp [parserStep_waitStart1 b h]
  | waitStart2 => simp [parserStep_waitStart2 b h]
  | waitCmd => simp [parserStep_waitCmd b h]
  | waitCrcHi => simp [parserStep_waitCrcHi b h]
  | waitCrcLo => simp [parserStep_waitCrcLo b h]

/-! ## A request frame, one byte per poll cycle (R108) -/

/-- A checksum taken in byte by byte is the checksum, whatever the register held (R103, R104). -/
theorem setLoByte_setHiByte (v w : Word16) : setLoByte (setHiByte v (hiByte w)) (loByte w) = w := by
  rw [setLoByte, hiByte_setHiByte, joinBytes_hiByte_loByte]

theorem deliver_request_append (p : Params) (c : Byte) (e1 e2 e3 e4 e5 : Nat × Level) (more : List CycleInput) :
    deliver (request p c) [e1, e2, e3, e4, e5] ++ more =
      ⟨some p.reqM1, e1.1, e1.2⟩ :: ⟨some p.reqM2, e2.1, e2.2⟩ :: ⟨some c, e3.1, e3.2⟩ ::
        ⟨some (hiByte (requestCrc p c)), e4.1, e4.2⟩ :: ⟨some (loByte (requestCrc p c)), e5.1, e5.2⟩ :: more := rfl

/-- Four cycles of `s` that bring a frame's markers, command byte `c` and checksum high byte `h`, the last at clock `t`,
leave this state, with the cycles `rest` to come. -/
def fourBytesTaken (c h : Byte) (t : Nat) (rest : List CycleInput) (s : State) : State :=
  { s with
    state := .waitCrcLo, start1 := s.par.reqM1, start2 := s.par.reqM2, cmd := c, crcRx := setHiByte s.crcRx h
    lastRx := t % 2 ^ s.par.clkW, resp := none, inputs := rest, cycle := s.cycle + 4 }

/-- The first four cycles of a frame are silent: one step lemma per parser state, in the frame's order. -/
theorem runCycles_fourBytes (k : Nat) {s : State} {c h : Byte} {e1 e2 e3 e4 : Nat × Level} {rest : List CycleInput}
    (hok : s.par.ok = true) (hst : s.state = .waitStart1)
    (hin : s.inputs = ⟨some s.par.reqM1, e1.1, e1.2⟩ :: ⟨some s.par.reqM2, e2.1, e2.2⟩ :: ⟨some c, e3.1, e3.2⟩ ::
      ⟨some h, e4.1, e4.2⟩ :: rest) :
    runCycles (k + 4) s = runCycles k (fourBytesTaken c h e4.1 rest s) := by
  rw [runCycles_succ (step_firstMarker hok hst (rxByte_cons hin)), hin]
  refine Eq.trans (runCycles_succ (step_secondMarker hok rfl rfl)) ?_
  refine Eq.trans (runCycles_succ (step_command hok rfl rfl)) ?_
  exact runCycles_succ (step_checksumHigh hok rfl rfl)

/-- A frame whose registers hold a CRC-valid request passes the gate (R140). -/
theorem dispatchFrame_of_request {s : State} (h1 : s.start1 = s.par.reqM1) (h2 : s.start2 = s.par.reqM2)
    (hcrc : s.crcRx = requestCrc s.par s.cmd) : dispatchFrame s = exec (decodeCmd s.par s.cmd) s := by
  have hok : crcOk s = true := by rw [crcOk, hcrc, h1, h2, requestCrc, beq_self_eq_true]
  rw [dispatchFrame, if_pos hok]

/-- Settles O50. Four cycles take the frame but its last byte (`runCycles_fourBytes`); the fifth completes it
(`step_of_completion`), its checksum is right (`dispatchFrame_of_request`), and the command byte stands for the
instruction (`decodeCmd_cmdByte`). -/
theorem frameOverFiveCyclesRunsInstruction : Obligations.FrameOverFiveCyclesRunsInstruction := by
  intro s i e1 e2 e3 e4 e5 more hok hw hst hin
  rw [encode, deliver_request_append] at hin
  rw [runCycles_fourBytes 1 hok hst hin, runCycles_one]
  refine Eq.trans (step_of_completion hok rfl rfl) ?_
  have hcrc := setLoByte_setHiByte s.crcRx (requestCrc s.par (i.cmdByte s.par))
  rw [dispatchFrame_of_request rfl rfl hcrc]
  simp only [frameTaken, fourBytesTaken, hcrc, decodeCmd_cmdByte hok hw, hst]
  rfl

end Sys2Proof.Machine
end

section
/-! # 41_crc.md: the CRC-16 unit, the validator's gate and a receiver's check of a response -/

namespace Sys2Proof.Machine

/-! ## The CRC of a list (R120 to R122) -/

@[simp] theorem crc16_nil (p : Params) : crc16 p [] = p.crcInit := rfl

theorem crc16_append (p : Params) (a b : List Byte) : crc16 p (a ++ b) = crcFrom p (crc16 p a) b :=
  crcFrom_append p p.crcInit a b

theorem crc16_append_cons (p : Params) (a z : List Byte) (b : Byte) :
    crc16 p (a ++ b :: z) = crcFrom p (crcUpdate p (crc16 p a) b) z := crc16_append p a (b :: z)

/-- Settles O7: the empty list by `crc16_nil`, this hardware's two values by evaluation. -/
theorem crcCheckValue : Obligations.CrcCheckValue :=
  ⟨crc16_nil, by decide +kernel, by decide +kernel⟩

/-- Settles O8: `crc16_append`. -/
theorem crcIsIncremental : Obligations.CrcIsIncremental := crc16_append

/-- Settles O9. Two equal CRCs come from equal registers before the common tail `z` (`crcFrom_injective`), and these
from equal bytes (`crcUpdate_injective_byte`). -/
theorem crcDetectsAnyOneByteChange : Obligations.CrcDetectsAnyOneByteChange := by
  intro p a z b b' h0 hb h
  rw [crc16_append_cons, crc16_append_cons] at h
  have hreg : crcUpdate p (crc16 p a) b = crcUpdate p (crc16 p a) b' := crcFrom_injective h0 z h
  exact hb (crcUpdate_injective_byte h0 _ hreg)

/-! ## The validator's gate (R123) -/

/-- Two request checksums are CRCs of lists that differ in the command byte alone (R61). -/
theorem requestCrc_ne {p : Params} (h0 : p.crcPoly.getLsbD 0 = true) {c d : Byte} (h : c ≠ d) :
    requestCrc p c ≠ requestCrc p d :=
  crcDetectsAnyOneByteChange p [p.reqM1, p.reqM2] [] c d h0 h

theorem dispatchFrame_of_crc_ne {s : State} (h : s.crcRx ≠ crc16 s.par [s.start1, s.start2, s.cmd]) :
    dispatchFrame s = .next (raiseError .invalidCrc s) := by
  simp [dispatchFrame, crcOk, h]

/-- Settles O10. The checksum received is not the one of the frame's own command byte (`requestCrc_ne`), so the gate
rejects the frame (`dispatchFrame_of_crc_ne`). -/
theorem crcOfAnotherCommandIsInvalidCrc : Obligations.CrcOfAnotherCommandIsInvalidCrc := by
  intro s c h0 h1 h2 hc hcrc
  have hne : s.crcRx ≠ crc16 s.par [s.start1, s.start2, s.cmd] := by
    rw [hcrc, h1, h2]
    exact requestCrc_ne h0 hc.symm
  rw [dispatchFrame_of_crc_ne hne, raiseError_eq]
  rfl

/-! ## A receiver's check of a response (R125) -/

/-- Read in the order it was written, a CRC is itself; read in the other order, its two bytes are swapped. -/
theorem receivedCrc_of_crcBytes {p : Params} {f : List Byte} {w : CrcOrder} {v : Word16} (o : CrcOrder)
    (h : f.drop (3 + p.n) = crcBytes w v) :
    receivedCrc p o f = some (if o = w then v else joinBytes (loByte v) (hiByte v)) := by
  cases o <;> cases w <;> simp [receivedCrc, h, crcBytes]

theorem joinBytes_loByte_hiByte_eq_self_iff (v : Word16) :
    joinBytes (loByte v) (hiByte v) = v ↔ hiByte v = loByte v := by
  rw [joinBytes_eq_iff]
  exact ⟨And.right, fun h => ⟨h.symm, h⟩⟩

/-- Settles O12. The CRC a receiver recomputes is the one the encoder wrote (`encodeResponse_take_drop`); read in order
`o` it comes out as it is or with its bytes swapped (`receivedCrc_of_crcBytes`). -/
theorem responseCrcRoundTrip : Obligations.ResponseCrcRoundTrip := by
  intro p r o hn
  obtain ⟨htake, hdrop⟩ := encodeResponse_take_drop p r hn
  rw [responseCrcMatches, htake, receivedCrc_of_crcBytes o hdrop, beq_iff_eq, Option.some_inj]
  by_cases ho : o = p.rspCrcOrder
  · simp only [ho, if_true, true_or]
  · rw [if_neg ho, joinBytes_loByte_hiByte_eq_self_iff, or_iff_right ho]

end Sys2Proof.Machine
end

section
/-! # 42_dispatcher.md: the CRC gate, the four commands and the answer of a completed frame -/

namespace Sys2Proof.Machine

/-! ## The commands (R141 to R144) -/

/-- Settles O21: DISABLE is `writeThenVerify` with the disable level (`writeThenVerify_eq`). -/
theorem disableDrivesAndVerifies : Obligations.DisableDrivesAndVerifies := fun s => by
  rw [exec, execDisable, writeThenVerify_eq]

/-- Settles O22: ENABLE is `writeThenVerify` with the enable level (`writeThenVerify_eq`). -/
theorem enableDrivesAndVerifies : Obligations.EnableDrivesAndVerifies := fun s => by
  rw [exec, execEnable, writeThenVerify_eq]

/-- Settles O23: GETCONFIG records the pin read and responds (`respond_eq`). -/
theorem getConfigReportsThePin : Obligations.GetConfigReportsThePin := fun s => by
  rw [exec, execGetConfig, respond_eq]
  rfl

/-- Settles O24: INVALID raises its error (`raiseError_eq`). -/
theorem invalidRaisesInvalidCommand : Obligations.InvalidRaisesInvalidCommand := fun c s => by
  rw [exec, execInvalid, raiseError_eq]
  rfl

/-! ## The CRC gate (R140) -/

theorem dispatchFrame_of_crc_eq {s : State} (h : s.crcRx = crc16 s.par [s.start1, s.start2, s.cmd]) :
    dispatchFrame s = exec (decodeCmd s.par s.cmd) s := by
  have hok : crcOk s = true := by rw [crcOk, h, beq_self_eq_true]
  rw [dispatchFrame, if_pos hok]

/-- Settles O26: the gate's two sides, `dispatchFrame_of_crc_ne` and `dispatchFrame_of_crc_eq`. -/
theorem crcGateBeforeDecode : Obligations.CrcGateBeforeDecode := by
  refine fun s => ⟨fun h => ?_, dispatchFrame_of_crc_eq⟩
  rw [dispatchFrame_of_crc_ne h, raiseError_eq]
  rfl

/-! ## What a dispatch accesses and depends on (R146, R147) -/

/-- The output register and the accesses of a dispatch, read off the state it answers. -/
theorem dispatchFrame_accesses {s t u : State} {po : Option Level} {evs : List Event} (h : dispatchFrame s = .next t)
    (hu : dispatchFrame s = .next u) (hpin : u.pinOut = po) (htrace : u.trace = s.trace ++ evs) :
    t.pinOut = po ∧ eventsSince s t = evs := by
  cases hu.symm.trans h
  exact ⟨hpin, eventsSince_append htrace⟩

/-- Settles O28. The gate and the command map (`commandMapIsExactComparison`) say which row of R146 a frame falls in;
the row is read off that command's equation. -/
theorem pinAccessesPerDispatch : Obligations.PinAccessesPerDispatch := by
  intro s t hok h
  obtain ⟨hdisable, henable, hgetConfig, hinvalid⟩ := commandMapIsExactComparison s.par s.cmd hok
  obtain ⟨hmismatch, hmatch⟩ := crcGateBeforeDecode s
  refine ⟨fun hcrc => ?_, fun hcrc => ⟨fun hc => ?_, fun hc => ?_, fun hc => ?_, fun h1 h2 h3 => ?_⟩⟩
  · exact (dispatchFrame_accesses h (hmismatch hcrc) rfl (List.append_nil _).symm).symm
  · have hd := hmatch hcrc
    rw [hdisable.2 hc, disableDrivesAndVerifies s] at hd
    exact dispatchFrame_accesses h hd rfl rfl
  · have hd := hmatch hcrc
    rw [henable.2 hc, enableDrivesAndVerifies s] at hd
    exact dispatchFrame_accesses h hd rfl rfl
  · have hd := hmatch hcrc
    rw [hgetConfig.2 hc, getConfigReportsThePin s] at hd
    exact dispatchFrame_accesses h hd rfl rfl
  · have hd := hmatch hcrc
    rw [(hinvalid s.cmd).2 ⟨rfl, h1, h2, h3⟩, invalidRaisesInvalidCommand s.cmd s] at hd
    exact dispatchFrame_accesses h hd rfl (List.append_nil _).symm

/-- Settles O29: by `dispatchFrame_uniform` both dispatches record the same events and set the same response. -/
theorem dispatchDependsOnlyOnFrameAndPin : Obligations.DispatchDependsOnlyOnFrameAndPin := by
  intro s s' t t' hpar hcrc hcmd hpin h h'
  obtain ⟨d, evs, r, hd⟩ := dispatchFrame_uniform s.par (crcOk s) s.cmd (pinLevel s)
  cases (hd s rfl rfl rfl rfl).symm.trans h
  cases (hd s' hpar.symm hcrc.symm hcmd.symm hpin.symm).symm.trans h'
  exact ⟨rfl, (eventsSince_append rfl).trans (eventsSince_append rfl).symm⟩

/-! ## A completed frame as a whole poll cycle (R140, R212, R214) -/

/-- A cycle whose byte completes a CRC-valid frame runs the command of its command byte. -/
theorem step_of_valid_frame {s : State} {b : Byte} (hok : s.par.ok = true) (hst : s.state = .waitCrcLo)
    (hrx : rxByte s = some b) (hcrc : joinBytes (hiByte s.crcRx) b = crc16 s.par [s.start1, s.start2, s.cmd]) :
    step s = match exec (decodeCmd s.par s.cmd) (frameTaken b s) with
      | .next t => .next (closeCycle (sendResponse t))
      | .fault f => .fault f
      | .refused r => .refused r := by
  have hd : dispatchFrame (frameTaken b s) = exec (decodeCmd s.par s.cmd) (frameTaken b s) :=
    dispatchFrame_of_crc_eq hcrc
  rw [← hd]
  exact step_of_completion hok hrx hst

/-- Settles O39: a frame that decodes is CRC-valid and stands for the command of its command byte (`decode_ok_inv`), so
`step_of_valid_frame` applies. -/
theorem stepRunsTheDecodedInstruction : Obligations.StepRunsTheDecodedInstruction := by
  intro s b i hok hst hrx hd
  obtain ⟨-, -, hcrc, rfl, -⟩ := decode_ok_inv hd
  exact step_of_valid_frame hok hst hrx hcrc

/-- Settles O40: the dispatch of the frame taken is the gate's rejection (`crcGateBeforeDecode`), which records
nothing, and `step_of_dispatch` adds the send. -/
theorem badChecksumCycle : Obligations.BadChecksumCycle := by
  intro s b hok hst hrx hcrc
  have hd := (crcGateBeforeDecode (frameTaken b s)).1 hcrc
  rw [step_of_dispatch (evs := []) hok hrx hst (by rw [hd, List.append_nil]), List.append_nil]
  rfl

/-- The placed frame is CRC-valid: the high byte of the checksum is in the register, the low byte is the one to come. -/
theorem placeRequest_crc (c : Byte) (s : State) :
    joinBytes (hiByte (placeRequest c s).crcRx) (loByte (requestCrc s.par c)) = requestCrc s.par c :=
  setLoByte_setHiByte s.crcRx (requestCrc s.par c)

/-- Settles O41: a word below 256 is placed as the command byte it is, and the placed frame is CRC-valid
(`placeRequest_crc`), so `step_of_valid_frame` applies. -/
theorem placedWordRunsNext : Obligations.PlacedWordRunsNext := by
  intro s w hok hw
  have hword : s.withFetchWord 8 w = placeRequest (BitVec.ofNat 8 w) s := by
    rw [State.withFetchWord, Nat.mod_eq_of_lt (b := 2 ^ 8) hw]
  rw [hword]
  exact ⟨frameTaken (loByte (requestCrc s.par (BitVec.ofNat 8 w))) (placeRequest (BitVec.ofNat 8 w) s),
    rfl, rfl, rfl, rfl, rfl, step_of_valid_frame hok rfl rfl (placeRequest_crc _ s)⟩

/-! ## Acknowledged pin actions (R145) -/

theorem mem_sinkWrites {f : List Byte} {l : List Event} : f ∈ sinkWrites l ↔ .sinkWrite f ∈ l := by
  simp only [sinkWrites, List.mem_filterMap]
  constructor
  · rintro ⟨e, he, hf⟩
    cases e <;> cases hf
    exact he
  · exact fun h => ⟨_, h, rfl⟩

/-- A command that drove the pin and acknowledges has read back the level it drove. -/
theorem CommandOutcome.confirmed_of_ack {s : State} {po : Option Level} {evs : List Event} {r : Response} {v : Level}
    (h : CommandOutcome s po evs r) (hne : s.par.ackByte ≠ s.par.nakByte) (hv : .pinWrite v ∈ evs)
    (hack : r.ack = s.par.ackByte) : evs = [.pinWrite v, .pinRead v] ∧
      (v = s.par.disableLevel ∧ r.status = s.par.stDisabled ∨ v = s.par.enableLevel ∧ r.status = s.par.stEnabled) := by
  cases h with
  | crcMismatch | unknown => cases hv
  | reportEnabled | reportDisabled => simp at hv
  | confirmed v' st hread hstatus =>
    obtain rfl : v = v' := by simpa using hv
    exact ⟨by rw [hread], hstatus⟩
  | unconfirmed => exact absurd hack.symm hne

/-- Settles O30, by the four kinds of poll cycle of `step_cases`: only a completed frame drives the pin. The frame sent
is the one of the command's response (`encodeResponse_injective`), so `CommandOutcome.confirmed_of_ack` applies. -/
theorem acknowledgedPinActionsAreConfirmed : Obligations.AcknowledgedPinActionsAreConfirmed := by
  intro s t v st h hv hsent
  obtain ⟨hok, ⟨-, -, rfl⟩ | ⟨-, -, rfl⟩ | ⟨b, -, -, rfl⟩ | ⟨b, po, evs, r, -, -, ho, rfl⟩⟩ := step_cases h
  · rw [eventsSince_append (evs := []) (by simp)] at hv
    cases hv
  · rw [eventsSince_append rfl] at hv
    simp at hv
  · rw [eventsSince_append (evs := []) (by simp)] at hv
    cases hv
  · rw [eventsSince_append (List.append_assoc _ _ _)] at hv hsent ⊢
    have hpin : .pinWrite v ∈ evs := by simpa using hv
    have hframe : encodeResponse s.par ⟨s.par.ackByte, st⟩ = encodeResponse s.par r := by
      simpa [ho.sinkWrites_eq_nil] using mem_sinkWrites.2 hsent
    obtain rfl := encodeResponse_injective s.par hframe
    obtain ⟨-, -, -, hne, -⟩ := (Params.ok_iff s.par).1 hok
    obtain ⟨rfl, hstatus⟩ := ho.confirmed_of_ack hne hpin rfl
    exact ⟨rfl, hstatus⟩

end Sys2Proof.Machine
end

section
/-! # 43_timeout.md: the timeout supervisor -/

namespace Sys2Proof.Machine

/-! ## The elapsed time and the condition (R170, R172, R175) -/

theorem elapsed_cast (w t last : Nat) : (elapsed w t last : Int) = ((t : Int) - last) % (2 ^ w : Nat) :=
  Int.toNat_of_nonneg (Int.emod_nonneg _ (by positivity))

theorem timeoutCheck_iff (s : State) : timeoutCheck s = true ↔
    s.state ≠ .waitStart1 ∧ s.par.timeoutMs < elapsed s.par.clkW (now s) s.lastRx := by
  simp [timeoutCheck]

theorem timeoutCheck_of_elapsed_le {s : State} (h : elapsed s.par.clkW (now s) s.lastRx ≤ s.par.timeoutMs) :
    timeoutCheck s = false :=
  Bool.eq_false_iff.2 fun hc => Nat.not_lt.2 h ((timeoutCheck_iff s).1 hc).2

theorem timeoutCheck_of_idle {s : State} (h : s.state = .waitStart1) : timeoutCheck s = false :=
  Bool.eq_false_iff.2 fun hc => ((timeoutCheck_iff s).1 hc).1 h

/-- Settles O33: the clock's wrap disappears under the modular subtraction, which leaves `d mod 2^w`. -/
theorem elapsedTimeAcrossClockWrap : Obligations.ElapsedTimeAcrossClockWrap := by
  intro w last d _ hd
  apply Int.ofNat_inj.1
  calc (elapsed w ((last + d) % 2 ^ w) last : Int)
      = (((last : Int) + d) % (2 ^ w : Nat) - last) % (2 ^ w : Nat) := by
        rw [elapsed_cast, Int.natCast_mod, Int.natCast_add]
    _ = (d : Int) % (2 ^ w : Nat) := by rw [Int.emod_sub_emod, add_sub_cancel_left]
    _ = d := Int.emod_eq_of_lt (Int.natCast_nonneg d) (Int.ofNat_lt.2 hd)

/-- Settles O32: `timeoutCheck_iff`, with the elapsed time read as an integer by `elapsed_cast`. -/
theorem timeoutFiresStrictlyPastThreshold : Obligations.TimeoutFiresStrictlyPastThreshold := fun s => by
  rw [timeoutCheck_iff, ← elapsed_cast, Int.ofNat_lt]

/-! ## One byte-less cycle (R171, R172, R217) -/

/-- Settles O34: `step_timeout`, with the send and the cycle's end written as one record update. -/
theorem timeoutCycle : Obligations.TimeoutCycle := fun _ hok hrx hc => step_timeout hok hrx hc

/-- Settles O35: an idle supervisor does not fire, so a byte-less cycle is quiet. -/
theorem noTimeoutWhileIdle : Obligations.NoTimeoutWhileIdle := fun _ hst =>
  ⟨timeoutCheck_of_idle hst, fun hok hrx => step_quiet hok hrx (timeoutCheck_of_idle hst)⟩

/-! ## A cycle with a byte (R173) -/

/-- A dispatch never answers TimeoutError: an acknowledgement is no `NAK_BYTE`, and each of the other three errors has
a status code of its own (R8). -/
theorem CommandOutcome.ne_timeoutError {s : State} {po : Option Level} {evs : List Event} {r : Response}
    (h : CommandOutcome s po evs r) (hok : s.par.ok = true) : r ≠ ⟨s.par.nakByte, s.par.stTimeoutError⟩ := by
  obtain ⟨-, -, -, hack, hcodes, -⟩ := (Params.ok_iff s.par).1 hok
  simp only [Params.statusCodes, List.nodup_cons, List.mem_cons, not_or] at hcodes
  obtain ⟨-, -, ⟨-, -, hwrite, -⟩, ⟨-, hcommand, -⟩, ⟨hcrc, -⟩, -⟩ := hcodes
  intro hr
  have ha := congrArg Response.ack hr
  have hs := congrArg Response.status hr
  cases h with
  | crcMismatch => exact hcrc hs
  | unknown => exact hcommand hs
  | unconfirmed => exact hwrite hs
  | reportEnabled | reportDisabled | confirmed => exact hack ha

/-- The one frame a completed frame's cycle sends is its dispatch's response. -/
theorem CommandOutcome.eq_of_sent {s : State} {po : Option Level} {evs : List Event} {r q : Response} {p : Params}
    (h : CommandOutcome s po evs r)
    (hq : .sinkWrite (encodeResponse p q) ∈ evs ++ [.sinkWrite (encodeResponse p r)]) : q = r := by
  have hframe : encodeResponse p q = encodeResponse p r := by
    simpa [h.sinkWrites_eq_nil] using mem_sinkWrites.2 hq
  exact encodeResponse_injective p hframe

/-- Settles O37, by the four kinds of poll cycle of `step_cases`, of which two take a byte: inside a frame nothing is
sent, and a completed frame is answered by its dispatch, never with TimeoutError (`CommandOutcome.ne_timeoutError`). -/
theorem noTimeoutInACycleWithAByte : Obligations.NoTimeoutInACycleWithAByte := by
  intro s t b hrx h hsent
  obtain ⟨hok, ⟨hnone, -, -⟩ | ⟨hnone, -, -⟩ | ⟨_, -, -, rfl⟩ | ⟨_, po, evs, r, -, -, ho, rfl⟩⟩ := step_cases h
  · cases hrx.symm.trans hnone
  · cases hrx.symm.trans hnone
  · rw [eventsSince_append (evs := []) (by simp)] at hsent
    cases hsent
  · rw [eventsSince_append (List.append_assoc _ _ _)] at hsent
    exact ho.ne_timeoutError hok (ho.eq_of_sent hsent).symm

/-! ## A run of byte-less cycles (R174) -/

theorem runCycles_add {n : Nat} {s t : State} (h : runCycles n s = .next t) (k : Nat) :
    runCycles (n + k) s = runCycles k t := by
  induction n generalizing s with
  | zero =>
    cases h
    rw [Nat.zero_add]
  | succ n ih =>
    cases hs : step s with
    | next u =>
      rw [runCycles_succ hs] at h
      rw [Nat.add_right_comm, runCycles_succ hs, ih h]
    | fault f => simp [runCycles, hs] at h
    | refused r => simp [runCycles, hs] at h

/-- Byte-less cycles within the threshold change nothing but the cycle's bookkeeping, however many they are. -/
theorem runCycles_waiting {s : State} {waiting rest : List CycleInput} (hok : s.par.ok = true)
    (hin : s.inputs = waiting ++ rest)
    (hwait : ∀ i ∈ waiting, i.rx = none ∧ elapsed s.par.clkW (i.now % 2 ^ s.par.clkW) s.lastRx ≤ s.par.timeoutMs) :
    ∃ resp cycle, runCycles waiting.length s = .next { s with resp := resp, inputs := rest, cycle := cycle } := by
  induction waiting generalizing s with
  | nil => exact ⟨s.resp, s.cycle, by rw [← List.nil_append rest, ← hin]; rfl⟩
  | cons i waiting ih =>
    obtain ⟨⟨hrx, hle⟩, hwait⟩ := List.forall_mem_cons.1 hwait
    have hquiet : step s = .next (closeCycle s) :=
      step_quiet hok ((rxByte_cons hin).trans hrx) (timeoutCheck_of_elapsed_le (by rwa [now_cons hin]))
    rw [List.length_cons, runCycles_succ hquiet]
    exact ih (s := closeCycle s) hok (congrArg List.tail hin) hwait

/-- Settles O38: `runCycles_waiting` up to the late cycle, which times out (`timeoutCycle`). -/
theorem timeoutInFirstLateCycle : Obligations.TimeoutInFirstLateCycle := by
  intro s waiting late more hok hst hin hwait hrx hlate
  obtain ⟨resp, cycle, hrun⟩ := runCycles_waiting hok hin hwait
  have hfire := timeoutCycle { s with resp := resp, inputs := late :: more, cycle := cycle } hok hrx
    ((timeoutCheck_iff _).2 ⟨hst, hlate⟩)
  exact ⟨⟨_, hrun, rfl, rfl, rfl⟩, ⟨_, (runCycles_add hrun 1).trans ((runCycles_one _).trans hfire), rfl, rfl, rfl⟩⟩

end Sys2Proof.Machine
end

section
/-! # 45_poll_cycle.md: the poll cycle's byte intake, outputs and progress -/

namespace Sys2Proof.Machine

/-! ## A cycle with no byte and no firing (R217) -/

/-- Settles O36: `step_quiet`, with the cycle's end written as one record update. -/
theorem quietCycleChangesNothing : Obligations.QuietCycleChangesNothing := fun _ hok hrx hc => step_quiet hok hrx hc

/-! ## The step is total (R210) -/

theorem step_of_par_not_ok {s : State} (h : s.par.ok = false) : step s = .refused .badParameters := by
  simp [step, pollCycle, h]

/-- By the kind of poll cycle: without a byte, with a frame's last byte (a dispatch always answers a next state), with a
byte inside a frame. -/
theorem exists_step_of_par_ok {s : State} (hok : s.par.ok = true) : ∃ t, step s = .next t := by
  cases hrx : rxByte s with
  | none => exact ⟨_, step_of_noByte hok hrx⟩
  | some b =>
    by_cases hst : s.state = .waitCrcLo
    · obtain ⟨po, evs, r, -, hd⟩ := dispatchFrame_outcome (frameTaken b s)
      exact ⟨_, step_of_dispatch hok hrx hst hd⟩
    · exact ⟨_, step_of_byte hok hrx hst⟩

/-- Settles O44: `exists_step_of_par_ok` and `step_of_par_not_ok`. -/
theorem stepIsTotal : Obligations.StepIsTotal := fun _ => ⟨exists_step_of_par_ok, step_of_par_not_ok⟩

/-! ## Byte intake (R211) -/

@[simp] theorem parserStep_inputs (b : Byte) (s : State) : (parserStep b s).1.inputs = s.inputs := by
  rw [parserStep_frame]

/-- The parser neither reads nor writes the timestamp, so it may be noted before the parser runs or after. -/
theorem parserStep_noteActivity (b : Byte) (s : State) :
    (parserStep b (noteActivity s)).1 = { (parserStep b s).1 with lastRx := now s } := by
  cases hst : s.state with
  | waitStart1 => by_cases hb : b = s.par.reqM1 <;> simp [parserStep, noteActivity, hst, hb]
  | waitStart2 => by_cases hb : b = s.par.reqM2 <;> simp [parserStep, noteActivity, hst, hb]
  | waitCmd | waitCrcHi | waitCrcLo => simp [parserStep, noteActivity, hst]

/-- A cycle with a byte ends as the parser leaves it, the timestamp noted, but for the output register and the trace,
which are the dispatch's. -/
theorem step_byte_eq {s t : State} {b : Byte} (h : step s = .next t) (hrx : rxByte s = some b) :
    ∃ po tr, t = closeCycle { (parserStep b s).1 with lastRx := now s, pinOut := po, trace := tr } := by
  obtain ⟨-, ⟨hnone, -⟩ | ⟨hnone, -⟩ | ⟨c, hc, -, rfl⟩ | ⟨c, po, evs, r, hc, hst, -, rfl⟩⟩ := step_cases h
  · cases hrx.symm.trans hnone
  · cases hrx.symm.trans hnone
  · cases hrx.symm.trans hc
    exact ⟨_, _, by rw [parserStep_noteActivity]⟩
  · cases hrx.symm.trans hc
    exact ⟨_, _, by rw [parserStep_waitCrcLo b hst]; rfl⟩

/-- A cycle without a byte changes the parser state, and only to `WaitStart1`, and the trace, but for the cycle's
bookkeeping. -/
theorem step_noByte_eq {s t : State} (h : step s = .next t) (hrx : rxByte s = none) :
    ∃ st tr, (st = s.state ∨ st = .waitStart1) ∧ t = closeCycle { s with state := st, trace := tr } := by
  obtain ⟨-, ⟨-, -, rfl⟩ | ⟨-, -, rfl⟩ | ⟨b, hb, -⟩ | ⟨b, _, _, _, hb, -⟩⟩ := step_cases h
  · exact ⟨_, _, .inl rfl, rfl⟩
  · exact ⟨_, _, .inr rfl, rfl⟩
  · cases hrx.symm.trans hb
  · cases hrx.symm.trans hb

theorem step_inputs {s t : State} (h : step s = .next t) : t.inputs = s.inputs.tail := by
  cases hrx : rxByte s with
  | none =>
    obtain ⟨st, tr, -, rfl⟩ := step_noByte_eq h hrx
    rfl
  | some b =>
    obtain ⟨po, tr, rfl⟩ := step_byte_eq h hrx
    rw [closeCycle_inputs, parserStep_inputs]

/-- Settles O43: `step_inputs`, and the registers read off `step_byte_eq` and `step_noByte_eq`. -/
theorem byteIntake : Obligations.ByteIntake := by
  refine fun s t h => ⟨step_inputs h, fun b hrx => ?_, fun hrx => ?_⟩
  · obtain ⟨po, tr, rfl⟩ := step_byte_eq h hrx
    exact ⟨rfl, rfl, rfl, rfl, rfl, rfl⟩
  · obtain ⟨st, tr, -, rfl⟩ := step_noByte_eq h hrx
    exact ⟨rfl, rfl, rfl, rfl, rfl, rfl⟩

/-! ## The outputs of a cycle (R215, R216) -/

/-- At most one pin write, then at most one pin read, then at most one frame. -/
def cycleEvents (wr rd : Option Level) (tx : Option (List Byte)) : List Event :=
  wr.toList.map .pinWrite ++ rd.toList.map .pinRead ++ tx.toList.map .sinkWrite

theorem sinkWrites_cycleEvents (wr rd : Option Level) (tx : Option (List Byte)) :
    sinkWrites (cycleEvents wr rd tx) = tx.toList := by
  simp [cycleEvents, sinkWrites, List.filterMap_map]

theorem pinWrites_cycleEvents (wr rd : Option Level) (tx : Option (List Byte)) :
    pinWrites (cycleEvents wr rd tx) = wr.toList := by
  simp [cycleEvents, pinWrites, List.filterMap_map]

theorem cycleOutput_of_cycleEvents {s t : State} {wr rd : Option Level} {tx : Option (List Byte)}
    (h : eventsSince s t = cycleEvents wr rd tx) : cycleOutput s t = ⟨tx, wr⟩ := by
  simp [cycleOutput, h, sinkWrites_cycleEvents, pinWrites_cycleEvents]

/-- A command or a rejected frame makes at most one pin write and at most one pin read, in this order (R146). -/
theorem CommandOutcome.eq_cycleEvents {s : State} {po : Option Level} {evs : List Event} {r : Response}
    (h : CommandOutcome s po evs r) : ∃ wr rd, evs = cycleEvents wr rd none := by
  cases h with
  | crcMismatch | unknown => exact ⟨none, none, rfl⟩
  | reportEnabled | reportDisabled => exact ⟨none, some (pinLevel s), rfl⟩
  | confirmed v | unconfirmed v => exact ⟨some v, some (pinLevel s), rfl⟩

/-- By the four kinds of poll cycle of `step_cases`: a timeout sends a frame, and a completed frame's pin accesses
(`CommandOutcome.eq_cycleEvents`) are followed by its answer. -/
theorem step_trace {s t : State} (h : step s = .next t) : ∃ wr rd tx, t.trace = s.trace ++ cycleEvents wr rd tx := by
  obtain ⟨-, ⟨-, -, rfl⟩ | ⟨-, -, rfl⟩ | ⟨b, -, -, rfl⟩ | ⟨b, po, evs, r, -, -, ho, rfl⟩⟩ := step_cases h
  · exact ⟨none, none, none, (List.append_nil _).symm⟩
  · exact ⟨none, none, some _, rfl⟩
  · exact ⟨none, none, none, by simp [cycleEvents]⟩
  · obtain ⟨wr, rd, rfl⟩ := ho.eq_cycleEvents
    exact ⟨wr, rd, some (encodeResponse s.par r), by simp [cycleEvents]⟩

/-- Settles O45: the cycle's events are those of `step_trace`, and its outputs are read off them
(`cycleOutput_of_cycleEvents`). -/
theorem cycleOutputsSayEverything : Obligations.CycleOutputsSayEverything := by
  intro s t h
  obtain ⟨wr, rd, tx, htrace⟩ := step_trace h
  have hev := eventsSince_append htrace
  refine ⟨hev ▸ htrace, rd, ?_⟩
  rw [cycleOutput_of_cycleEvents hev]
  exact hev

/-! ## The parser comes back to its initial state (R218) -/

/-- The most bytes the parser can take from a state before it is in `WaitStart1`. -/
def bytesToGo : ParserState → Nat
  | .waitStart1 => 0
  | .waitStart2 => 4
  | .waitCmd => 3
  | .waitCrcHi => 2
  | .waitCrcLo => 1

theorem bytesToGo_le (st : ParserState) : bytesToGo st ≤ 4 := by cases st <;> decide

theorem bytesToGo_eq_zero_iff (st : ParserState) : bytesToGo st = 0 ↔ st = .waitStart1 := by cases st <;> decide

/-- Inside a frame every byte brings the parser nearer, a rejected second marker at once. -/
theorem parserStep_bytesToGo_lt (b : Byte) {s : State} (hst : s.state ≠ .waitStart1) :
    bytesToGo (parserStep b s).1.state < bytesToGo s.state := by
  obtain ⟨hs, -⟩ | ⟨hs, -⟩ | ⟨hs, -, e⟩ | ⟨hs, -, e⟩ | ⟨hs, e⟩ | ⟨hs, e⟩ | ⟨hs, e⟩ := parserStep_cases b s
  · exact absurd hs hst
  · exact absurd hs hst
  all_goals simp [e, hs, bytesToGo]

/-- A cycle that starts inside a frame takes its byte off the number to go, and without a byte does not add to it. -/
theorem step_bytesToGo {s t : State} (h : step s = .next t) (hst : s.state ≠ .waitStart1) :
    bytesToGo t.state + (if (rxByte s).isSome then 1 else 0) ≤ bytesToGo s.state := by
  cases hrx : rxByte s with
  | none =>
    obtain ⟨st, tr, rfl | rfl, rfl⟩ := step_noByte_eq h hrx
    · exact le_rfl
    · exact Nat.zero_le _
  | some b =>
    obtain ⟨po, tr, rfl⟩ := step_byte_eq h hrx
    exact parserStep_bytesToGo_lt b hst

/-- Listed cycles that bring as many bytes as the parser has to go reach `WaitStart1`. -/
theorem exists_runCycles_waitStart1 {s : State} {n : Nat} (hok : s.par.ok = true) (hn : n ≤ s.inputs.length)
    (hbytes : bytesToGo s.state ≤ (s.inputs.take n).countP (fun i => i.rx.isSome)) :
    ∃ k t, k ≤ n ∧ runCycles k s = .next t ∧ t.state = .waitStart1 := by
  induction n generalizing s with
  | zero => exact ⟨0, s, le_rfl, rfl, (bytesToGo_eq_zero_iff _).1 (by simpa using hbytes)⟩
  | succ n ih =>
    by_cases hst : s.state = .waitStart1
    · exact ⟨0, s, Nat.zero_le _, rfl, hst⟩
    obtain ⟨u, hu⟩ := exists_step_of_par_ok hok
    obtain ⟨i, rest, hin⟩ := List.exists_cons_of_length_pos (Nat.lt_of_lt_of_le n.succ_pos hn)
    have hrest : u.inputs = rest := by rw [step_inputs hu, hin, List.tail_cons]
    have hgo := step_bytesToGo hu hst
    rw [rxByte_cons hin] at hgo
    rw [hin, List.take_succ_cons, List.countP_cons] at hbytes
    rw [hin, List.length_cons] at hn
    obtain ⟨k, t, hk, hrun, ht⟩ := ih (s := u) (by rw [parametersNeverChange s u hu, hok])
      (by rw [hrest]; exact Nat.le_of_succ_le_succ hn) (by rw [hrest]; omega)
    exact ⟨k + 1, t, Nat.succ_le_succ hk, (runCycles_succ hu).trans hrun, ht⟩

/-- The supervisor does not fire in `WaitStart1`, and elsewhere it fires past the threshold. -/
theorem step_past_threshold {s : State} (hok : s.par.ok = true) (hrx : rxByte s = none)
    (hlate : s.par.timeoutMs < elapsed s.par.clkW (now s) s.lastRx) : ∃ t, step s = .next t ∧ t.state = .waitStart1 := by
  by_cases hst : s.state = .waitStart1
  · exact ⟨_, step_quiet hok hrx (timeoutCheck_of_idle hst), hst⟩
  · exact ⟨_, step_timeout hok hrx ((timeoutCheck_iff s).2 ⟨hst, hlate⟩), rfl⟩

/-- Settles O51: four bytes are as many as the parser can have to go (`bytesToGo_le`), so they bring it to `WaitStart1`
(`exists_runCycles_waitStart1`); the timeout's way is `step_past_threshold`. -/
theorem parserReturnsToInitialState : Obligations.ParserReturnsToInitialState :=
  ⟨fun s _ hok hn hbytes => exists_runCycles_waitStart1 hok hn ((bytesToGo_le s.state).trans hbytes),
    fun _ hok hrx hlate => step_past_threshold hok hrx hlate⟩

end Sys2Proof.Machine
end

section
/-! # 60_exceptions.md: which error a frame is answered with, and the silent conditions -/

namespace Sys2Proof.Machine

/-! ## What tells the error responses apart (R8, R230) -/

/-- R8 asks for distinct status codes, and the four errors' are the last four of the six. -/
theorem errorCode_injective {p : Params} (hok : p.ok = true) : Function.Injective (errorCode p) := by
  obtain ⟨-, -, -, -, hcodes, -⟩ := (Params.ok_iff p).1 hok
  have herrors : ([.pinWriteError, .invalidCommand, .invalidCrc, .timeoutError].map (errorCode p)).Nodup :=
    hcodes.sublist (List.drop_sublist 2 p.statusCodes)
  have hall (e : ErrorStatus) : e ∈ [.pinWriteError, .invalidCommand, .invalidCrc, .timeoutError] := by
    cases e <;> decide
  exact fun e f h => List.inj_on_of_nodup_map herrors (hall e) (hall f) h

theorem errorResponse_eq_iff {p : Params} (hok : p.ok = true) (e f : ErrorStatus) :
    (⟨p.nakByte, errorCode p f⟩ : Response) = ⟨p.nakByte, errorCode p e⟩ ↔ e = f := by
  rw [Response.mk.injEq, and_iff_right rfl, (errorCode_injective hok).eq_iff, eq_comm]

theorem ackResponse_ne_errorResponse {p : Params} (hok : p.ok = true) (st : Byte) (e : ErrorStatus) :
    (⟨p.ackByte, st⟩ : Response) ≠ ⟨p.nakByte, errorCode p e⟩ := by
  obtain ⟨-, -, -, hack, -⟩ := (Params.ok_iff p).1 hok
  exact fun h => hack (congrArg Response.ack h)

/-! ## The error of a command and of a completed frame (R235) -/

theorem writeThenVerify_answers_error_iff {s : State} (hok : s.par.ok = true) (v : Level) (st : Byte)
    (e : ErrorStatus) : (writeThenVerify v st s).resp = some ⟨s.par.nakByte, errorCode s.par e⟩ ↔
      e = .pinWriteError ∧ pinLevel s ≠ v := by
  rw [writeThenVerify_eq, Option.some_inj]
  by_cases hv : pinLevel s = v
  · simp [hv, ackResponse_ne_errorResponse hok]
  · rw [if_neg hv, and_iff_left hv]
    exact errorResponse_eq_iff hok e .pinWriteError

/-- An unknown command has InvalidCommand, DISABLE and ENABLE have PinWriteError where the read-back differs from the
level driven, and GETCONFIG has no error. -/
theorem exec_answers_error_iff {i : Instr} {s t : State} (hok : s.par.ok = true) (h : exec i s = .next t)
    (e : ErrorStatus) : t.resp = some ⟨s.par.nakByte, errorCode s.par e⟩ ↔
      e = .invalidCommand ∧ (∃ c, i = .invalid c) ∨
      e = .pinWriteError ∧ (i = .disable ∧ pinLevel s ≠ s.par.disableLevel ∨
        i = .enable ∧ pinLevel s ≠ s.par.enableLevel) := by
  cases i with
  | disable =>
    cases h
    simp [writeThenVerify_answers_error_iff hok]
  | enable =>
    cases h
    simp [writeThenVerify_answers_error_iff hok]
  | getConfig =>
    cases h
    simp [ackResponse_ne_errorResponse hok]
  | invalid c =>
    cases h
    simp [errorResponse_eq_iff hok]

/-- The same of a completed frame: the CRC gate's error first, then the errors of the command that the command map
(`commandMapIsExactComparison`) gives. -/
theorem dispatchFrame_answers_error_iff {s t : State} (hok : s.par.ok = true) (h : dispatchFrame s = .next t)
    (e : ErrorStatus) : t.resp = some ⟨s.par.nakByte, errorCode s.par e⟩ ↔
      e = .invalidCrc ∧ s.crcRx ≠ crc16 s.par [s.start1, s.start2, s.cmd] ∨
      e = .invalidCommand ∧ s.crcRx = crc16 s.par [s.start1, s.start2, s.cmd] ∧
        s.cmd ≠ s.par.cmdDisable ∧ s.cmd ≠ s.par.cmdEnable ∧ s.cmd ≠ s.par.cmdGetConfig ∨
      e = .pinWriteError ∧ s.crcRx = crc16 s.par [s.start1, s.start2, s.cmd] ∧
        (s.cmd = s.par.cmdDisable ∧ pinLevel s ≠ s.par.disableLevel ∨
          s.cmd = s.par.cmdEnable ∧ pinLevel s ≠ s.par.enableLevel) := by
  by_cases hcrc : s.crcRx = crc16 s.par [s.start1, s.start2, s.cmd]
  · rw [dispatchFrame_of_crc_eq hcrc] at h
    obtain ⟨hdisable, henable, -, hinvalid⟩ := commandMapIsExactComparison s.par s.cmd hok
    rw [exec_answers_error_iff hok h e]
    simp [hcrc, hdisable, henable, hinvalid]
  · rw [dispatchFrame_of_crc_ne hcrc] at h
    cases h
    simp [hcrc, errorResponse_eq_iff hok]

/-- Settles O27: `dispatchFrame_answers_error_iff` for each of the three errors. -/
theorem errorPriorityInOneFrame : Obligations.ErrorPriorityInOneFrame := by
  intro s t hok h
  have herror := dispatchFrame_answers_error_iff hok h
  refine ⟨?_, ?_, ?_⟩
  · simpa [errorCode] using herror .invalidCrc
  · simpa [errorCode] using herror .invalidCommand
  · simpa [errorCode] using herror .pinWriteError

/-! ## The silent conditions (R231) -/

/-- A wrong marker byte only sends the parser back, or leaves it, in `WaitStart1` (R100, R101). -/
theorem parserStep_of_wrong_marker {s : State} {b : Byte}
    (h : s.state = .waitStart1 ∧ b ≠ s.par.reqM1 ∨ s.state = .waitStart2 ∧ b ≠ s.par.reqM2) :
    (parserStep b s).1 = { s with state := .waitStart1 } := by
  obtain ⟨hst, hb⟩ | ⟨hst, hb⟩ := h
  · rw [(firstMarkerArm b s hst).2 hb, ← hst]
  · rw [(secondMarkerArm b s hst).2 hb]

/-- Settles O42: the byte completes no frame, so the cycle is the parser's step with the time noted (`step_of_byte`,
`parserStep_noteActivity`), and that step is `parserStep_of_wrong_marker`. -/
theorem markerMismatchIsSilent : Obligations.MarkerMismatchIsSilent := by
  intro s b hok hrx h
  have hst : s.state ≠ .waitCrcLo := by
    obtain ⟨hst, -⟩ | ⟨hst, -⟩ := h <;> simp [hst]
  rw [step_of_byte hok hrx hst, parserStep_noteActivity, parserStep_of_wrong_marker h]
  rfl

end Sys2Proof.Machine
end

section
/-! # 70_reset_and_hazards.md: reset, and the frames a stray first marker loses -/

namespace Sys2Proof.Machine

/-! ## Reset (R260, R261) -/

/-- Settles O55: the fields are read off `State.resetWith`, and the parameters meet R8 by `thisHardware_ok`. -/
theorem resetState : Obligations.ResetState :=
  ⟨rfl, thisHardware_ok, rfl, rfl, rfl, rfl, rfl, rfl, rfl, rfl⟩

/-! ## A first marker not followed by the second (R265, R267) -/

theorem deliver_cons (b : Byte) (bs : List Byte) (e : Nat × Level) (env : List (Nat × Level)) :
    deliver (b :: bs) (e :: env) = ⟨some b, e.1, e.2⟩ :: deliver bs env := rfl

/-- Bytes none of which is the first marker leave an idle parser idle, however many they are, and are consumed without
an output or a pin action. -/
theorem runCycles_idle {s : State} {bs : List Byte} {env : List (Nat × Level)} {rest : List CycleInput}
    (hok : s.par.ok = true) (hst : s.state = .waitStart1) (hlen : bs.length = env.length)
    (hin : s.inputs = deliver bs env ++ rest) (hbs : ∀ b ∈ bs, b ≠ s.par.reqM1) :
    ∃ t, runCycles bs.length s = .next t ∧ t.state = .waitStart1 ∧ t.trace = s.trace ∧ t.pinOut = s.pinOut ∧
      t.inputs = rest := by
  induction bs generalizing s env with
  | nil => exact ⟨s, rfl, hst, rfl, rfl, hin⟩
  | cons b bs ih =>
    obtain ⟨e, env, rfl⟩ := List.exists_cons_of_length_eq_add_one hlen.symm
    obtain ⟨hb, hbs⟩ := List.forall_mem_cons.1 hbs
    rw [deliver_cons, List.cons_append] at hin
    rw [List.length_cons, runCycles_succ (markerMismatchIsSilent s b hok (rxByte_cons hin) (.inl ⟨hst, hb⟩)), hin]
    exact ih hok rfl (Nat.succ.inj hlen) rfl hbs

/-- A first marker takes an idle parser to `WaitStart2`, and a byte that is not the second marker takes it back. -/
theorem runCycles_firstMarker_mismatch (k : Nat) {s : State} {b : Byte} {e1 e2 : Nat × Level} {rest : List CycleInput}
    (hok : s.par.ok = true) (hst : s.state = .waitStart1)
    (hin : s.inputs = ⟨some s.par.reqM1, e1.1, e1.2⟩ :: ⟨some b, e2.1, e2.2⟩ :: rest) (hb : b ≠ s.par.reqM2) :
    runCycles (k + 2) s = runCycles k { s with
      state := .waitStart1, start1 := s.par.reqM1, lastRx := e2.1 % 2 ^ s.par.clkW, resp := none, inputs := rest
      cycle := s.cycle + 2 } := by
  rw [runCycles_succ (step_firstMarker hok hst (rxByte_cons hin)), hin]
  exact runCycles_succ (markerMismatchIsSilent _ b hok rfl (.inr ⟨rfl, hb⟩))

/-- The parser is idle again after `runCycles_firstMarker_mismatch`, so `runCycles_idle` takes the bytes after it. -/
theorem runCycles_lostFrame {s : State} {b : Byte} {bs : List Byte} {e1 e2 : Nat × Level} {env : List (Nat × Level)}
    {rest : List CycleInput} (hok : s.par.ok = true) (hst : s.state = .waitStart1) (hlen : bs.length = env.length)
    (hin : s.inputs = deliver (s.par.reqM1 :: b :: bs) (e1 :: e2 :: env) ++ rest) (hb : b ≠ s.par.reqM2)
    (hbs : ∀ c ∈ bs, c ≠ s.par.reqM1) :
    ∃ t, runCycles (bs.length + 2) s = .next t ∧ t.state = .waitStart1 ∧ t.trace = s.trace ∧ t.pinOut = s.pinOut ∧
      t.inputs = rest := by
  rw [deliver_cons, deliver_cons, List.cons_append, List.cons_append] at hin
  rw [runCycles_firstMarker_mismatch _ hok hst hin hb]
  exact runCycles_idle hok rfl hlen rfl hbs

/-- Settles O56: the second `REQ_M1` is the byte that is not `REQ_M2`, and `REQ_M2` then comes to an idle parser
(`runCycles_lostFrame`). -/
theorem doubledFirstMarkerLosesTheFrame : Obligations.DoubledFirstMarkerLosesTheFrame := by
  intro s e1 e2 e3 more hok hne hst hin
  obtain ⟨t, hrun, hidle, htrace, -, hrest⟩ :=
    runCycles_lostFrame hok hst rfl hin hne (List.forall_mem_singleton.2 hne.symm)
  exact ⟨t, hrun, hidle, htrace, hrest⟩

/-- This hardware's `RSP_M1` is its `REQ_M1` (R267), and N = 1. -/
theorem encodeResponse_thisHardware (r : Response) : encodeResponse thisHardware r =
    [thisHardware.reqM1, thisHardware.rspM2, r.ack, r.status,
      hiByte (crc16 thisHardware (responseBody thisHardware r)),
      loByte (crc16 thisHardware (responseBody thisHardware r))] := rfl

/-- After its markers no response holds a `REQ_M1`: evaluated, checksum bytes included, for each of the six. -/
theorem firstMarker_not_in_response_tail : ∀ r ∈ emittedPairs thisHardware,
    ∀ b ∈ (encodeResponse thisHardware r).drop 2, b ≠ thisHardware.reqM1 := by decide +kernel

/-- Settles O57: a response starts with `REQ_M1`, its second byte `RSP_M2` is not `REQ_M2`, and its other bytes are no
`REQ_M1` (`firstMarker_not_in_response_tail`), so `runCycles_lostFrame` applies. -/
theorem loopedBackResponseIsSilent : Obligations.LoopedBackResponseIsSilent := by
  intro s r e1 e2 e3 e4 e5 e6 more hpar hr hst hin
  have htail := firstMarker_not_in_response_tail r hr
  rw [encodeResponse_thisHardware, ← hpar] at hin htail
  have hsecond : s.par.rspM2 ≠ s.par.reqM2 := by rw [hpar]; decide
  exact runCycles_lostFrame (by rw [hpar, thisHardware_ok]) hst rfl hin hsecond htail

end Sys2Proof.Machine
end
